-- ==== Sys2Proof/Word.lean ====
section
/-! DEFINITION. The words of CORE (00_scope.md R9, 20_memory.md R71): bytes, the address field of a `TXN` word, and the
lines of text of the snapshot. -/

namespace Sys2Proof

/-- `DATA_BITS` = 8: every memory, port and VRAM datum (20_memory.md R71). -/
abbrev Byte := BitVec 8

/-- The address or port field of a `TXN` word, bits 15:0 (30_encoding.md R101). An address itself is a number below
2^`ADDR_BITS`, a port number one below 2^`PORT_BITS` (20_memory.md R70, entry 27). -/
abbrev Word := BitVec 16

/-- One line of text, as the codes of its characters, without its line end. -/
abbrev Line := List Byte

/-- A text, line by line (48_host_interface.md R302: "one line per field"). -/
abbrev Text := List Line

/-- The line of a string's character codes. -/
def asc (s : String) : Line := s.toList.map fun c => BitVec.ofNat 8 c.toNat

/-- One pixel of the frame buffer, in the host's "common pixel format" (48_host_interface.md R312). -/
abbrev Pixel := BitVec 32

end Sys2Proof
end

