-- ==== Sys2Proof/Config.lean ====
section
/-! DEFINITION. The implementation parameters of 00_scope.md R9. Those whose ground is the source, and what is derived from
them alone, are constants here; every other one is a field of `Params`, which State carries (field `cfg`), so that a claim
about every state is a claim about every value of them (entry 1). The default values stand in Machine/Defaults.lean.
After them the CPU Engine, the parameter of CORE that it is (40_cpu_sequencer.md R130), with the uninterpreted functions of
an engine of which nothing is known. -/

namespace Sys2Proof

/-- `VRAM_SIZE` (R9, from the source). -/
abbrev vramSize : Nat := 768

/-- `ROW_STRIDE`: VRAM bytes of one display row (R9, from the source). -/
abbrev rowStride : Nat := 12

/-- `Y_MASK` (R9, from the source). -/
abbrev yMask : BitVec 6 := 0x3F

/-- `FB_WIDTH`: eight pixels a byte of a row (R9, 48_host_interface.md R312). -/
abbrev fbWidth : Nat := 8 * rowStride

/-- `FB_HEIGHT`: the rows of VRAM (R9, R312). -/
abbrev fbHeight : Nat := vramSize / rowStride

/-- `VRAM_OOB`: what a VRAM offset of 768 or more does (43_display.md R204). -/
inductive VramOob where
  | stop      -- `fault`: the model fault VramRange
  | sentinel  -- a read gives 0xFF, a write is dropped
deriving DecidableEq, Repr

/-- `LOWBANK_FILTER_SCOPE`: what a filtered port-0 write skips (42_port_dispatch.md R161). -/
inductive FilterScope where
  | tickOnly
  | wholeWrite
deriving DecidableEq, Repr

/-- The endianness tag of the "Main RAM" domain (48_host_interface.md R307): a label, no behaviour. -/
inductive Endian where
  | little
  | big
deriving DecidableEq, Repr

/-- One piece of a snapshot's text between its markers (48_host_interface.md R302). -/
inductive TextItem where
  | field (i : Nat)   -- the line of field number `i` of R301, from 0
  | cpuBlock
deriving DecidableEq, Repr

/-- The parameters of 00_scope.md R9 whose ground is not the source. The link constants have the lengths that
30_encoding.md R115, R117, R119 and R120 give them, and the two bytes of an entry's length lie within the 13 of its header
(R116). The text's keys, markers and order are OPEN (92_eei_decisions.md D36). -/
structure Params where
  addrBits : Nat                            -- `ADDR_BITS`
  portBits : Nat                            -- `PORT_BITS`
  lowEnd : Nat                              -- `LOW_END`
  ramBase : Nat                             -- `RAM_BASE`
  ramSize : Nat                             -- `RAM_SIZE`
  bankLowBits : Nat                         -- `BANK_LOW_BITS`
  bankHighSrcBit : Nat                      -- `BANK_HIGH_SRC_BIT`
  xMask : BitVec 5                          -- `X_MASK`
  staleReadAdvances : Bool                  -- `STALE_READ_ADVANCES`
  vramOob : VramOob                         -- `VRAM_OOB`
  filterScope : FilterScope                 -- `LOWBANK_FILTER_SCOPE`
  prepareFallthrough : Bool                 -- `PREPARE_FALLTHROUGH`
  port4Const : Byte                         -- `PORT4_CONST`
  stOnUp : Byte                             -- `ST_ON_UP`
  stLinkIdle : Byte                         -- `ST_LINK_IDLE`
  keymap : List (List (Line × Nat))         -- `KEYMAP`: group by group, button name and bit
  burstsPerFrame : Nat                      -- `BURSTS_PER_FRAME`
  cyclesPerBurst : Nat                      -- `CYCLES_PER_BURST`
  linkMagic : Vector Byte 11                -- `LINK_MAGIC`
  linkSizeOffset : Nat                      -- `LINK_SIZE_OFFSET`
  linkDataStart : Nat                       -- `LINK_DATA_START`
  linkOverhead : Nat                        -- `LINK_OVERHEAD`
  linkLenOffset : Fin 12                    -- the place of `L` in the entry's header (R116)
  linkReq : Vector Byte 2                   -- `LINK_REQ`
  linkReqCkStart : Nat                      -- `LINK_REQ_CK_START`
  linkData : Vector Byte 2                  -- `LINK_DATA`
  linkDataCkStart : Nat                     -- the index in `xfer_var` from which the data command sums (R119)
  linkOomSentinel : Byte                    -- `LINK_OOM_SENTINEL`
  linkEot : Vector Byte 4                   -- `LINK_EOT`
  linkOomAck : Vector Byte 4                -- `LINK_OOM_ACK`
  fbOn : Pixel                              -- `FB_ON`
  fbOff : Pixel                             -- `FB_OFF`
  domainEndian : Endian                     -- `DOMAIN_ENDIAN`
  textKeys : List Line                      -- `TEXT_KEYS`, in the order of 48_host_interface.md R301
  machineName : Line                        -- `MACHINE_NAME`
  startBrackets : Line × Line               -- what stands before and after the name in the start marker
  endBrackets : Line × Line                 -- and in the end marker
  textOrder : List TextItem                 -- the order of a text's lines, the position of the CPU block with it
deriving DecidableEq, Repr

/-- `BANK_SIZE` = `RAM_BASE - LOW_END` (R9). -/
def Params.bankSize (p : Params) : Nat := p.ramBase - p.lowEnd

/-- `NBANKS` = 2^(`BANK_LOW_BITS` + 1) (R9). -/
def Params.nBanks (p : Params) : Nat := 2 ^ (p.bankLowBits + 1)

/-- `ROM_SIZE` = `NBANKS * BANK_SIZE` (R9). -/
def Params.romSize (p : Params) : Nat := p.nBanks * p.bankSize

/-! ## The CPU Engine -/

/-- A bus transaction of the CPU Engine (00_scope.md R6, 30_encoding.md R101). -/
inductive Transaction where
  | memrd (addr : Nat)
  | memwr (addr : Nat) (v : Byte)
  | iord (port : Nat)
  | iowr (port : Nat) (v : Byte)
deriving DecidableEq, Repr

/-- The CPU Engine's state as CORE knows it: `cpu.PC` and the rest, an opaque block, in which any countable state can be coded
(10_state.md R21, R22). -/
structure Cpu where
  pc : Nat
  block : List Byte
deriving DecidableEq, Repr, Inhabited

/-- What the engine does in one run of `ExecuteCycles`, as a decision tree (40_cpu_sequencer.md R132, R133; entry 2): it
changes its own state, issues a transaction, or invokes the interrupt callback, and it chooses by the byte that the last read
of this run returned and by `irq_line`, and by nothing else. A tree is finite: "The run always returns". -/
inductive EngineRun where
  | done                                     -- the budget is spent
  | compute (cpu : Cpu) (rest : EngineRun)
  | bus (t : Transaction) (rest : EngineRun)
  | irqAck (rest : EngineRun)
  | onByte (v : Byte) (yes no : EngineRun)   -- did the last read of this run return `v`?
  | onIrq (yes no : EngineRun)               -- is `irq_line` 1?
deriving DecidableEq, Repr, Inhabited

/-- The run the engine makes from the state `cpu` when it is given the budget `budget`. -/
structure EngineCase where
  cpu : Cpu
  budget : Nat
  run : EngineRun
deriving DecidableEq, Repr

/-- An engine written out, for runs that are evaluated: what is not listed is a run without a transaction and the plain form of
a CPU block. -/
structure EngineTable where
  resetBlock : List Byte        -- the state its reset leaves, but for `cpu.PC`
  cases : List EngineCase       -- its run function
  codec : List (Cpu × Text)     -- its serializer and deserializer
deriving DecidableEq, Repr

/-- The members of the contract of 40_cpu_sequencer.md R130 (reset, run, serializer, deserializer): written out, or those of the
engine number `id`, of which nothing is known. -/
inductive EngineKind where
  | table (t : EngineTable)
  | own (id : Nat)
deriving DecidableEq, Repr

/-- The CPU Engine, the parameter of CORE (40_cpu_sequencer.md R130), as plain data. Its behaviour is a function of `cpu` (with
`cpu.PC`), `N`, `irq_line` and the bytes the Dispatcher returns, and of nothing else: the assumption R133 asks for holds of
every value of this type (entry 2). `nmi_line` is an input it never looks at (R130: "unused"). -/
structure Engine where
  openMark : Line               -- the bracket markers of its block in a snapshot (48_host_interface.md R302, R303)
  closeMark : Line
  kind : EngineKind
deriving DecidableEq, Repr

/-- The reset function of the engine number `id` (40_cpu_sequencer.md R138): uninterpreted, so a statement about it is one about
every function (entry 2). -/
opaque Config.ownReset : Nat → Cpu → Cpu

/-- Its run function (R132, R133): for a state and a budget, the decision tree of the run. -/
opaque Config.ownRun : Nat → Cpu → Nat → EngineRun

/-- Its serializer (R139). -/
opaque Config.ownSave : Nat → Cpu → Text

/-- Its deserializer (R139); it may reject a block (93_implementation_defined.md U12). -/
opaque Config.ownLoad : Nat → Text → Option Cpu

end Sys2Proof
end

