-- ==== Sys2Proof/Syntax.lean ====
section
/-! DEFINITION. The operations of CORE: one constructor of `Instr` per row of spec/opcode_table.json (30_encoding.md
R101, R110, R122), with the operands of the host operations, and the form in which an agent presents an operation. -/

namespace Sys2Proof

/-- The two counters of 47_frame_scheduler.md R295. -/
inductive Counter where
  | frame
  | lag
deriving DecidableEq, Repr

/-- Which host callbacks are registered at `CONSTRUCT` (48_host_interface.md R314). -/
structure HookBundle where
  read : Bool
  write : Bool
  poll : Bool
deriving DecidableEq, Repr

/-- A ROM image: its length, and its bytes by offset; an offset that is not listed holds 0x00, and of two entries for one
offset the first counts (10_state.md R24, entry 9). -/
structure RomImage where
  size : Nat
  cells : List Host.Cell
deriving DecidableEq, Repr

/-- The instance a snapshot was taken from: what 48_host_interface.md R301 leaves out of it because it is fixed at
construction, and U15 of 93_implementation_defined.md compares (70_reset_and_hazards.md R367). -/
structure Origin where
  cfg : Params
  startPc : Nat
  rom : List Host.Cell
  engine : Engine
deriving DecidableEq, Repr

/-- A snapshot as the host holds it: the text, and, where the host has it from a `SAVE_TEXT`, the instance it came from. The
origin is no part of the text (entry 36). -/
structure Snapshot where
  text : Text
  origin : Option Origin
deriving DecidableEq, Repr

/-- The inputs of `CONSTRUCT(ROM, START_PC, hooks, engine)`, "and the parameters of 00_scope.md rule R9"
(70_reset_and_hazards.md R351). -/
structure ConstructArgs where
  rom : RomImage
  startPc : Nat
  hooks : HookBundle
  engine : Engine
  params : Params
deriving DecidableEq, Repr

/-- One constructor per row of spec/opcode_table.json. -/
inductive Instr where
  -- format DCMD, the display command byte (30_encoding.md R110)
  | dispMode (m : BitVec 1)
  | dispNop23 (n : BitVec 1)
  | dispDir (d : BitVec 2)
  | dispScroll8 (s : BitVec 3)
  | dispScroll16 (s : BitVec 4)
  | dispScroll32 (s : BitVec 5)
  | dispSetx (u : BitVec 1) (x : BitVec 5)
  | dispSety (r : BitVec 6)
  | dispContrast (k : BitVec 6)
  -- format TXN (30_encoding.md R101): memory, by region; `a` is the offset within the region
  | memrdLow (a : BitVec 14)
  | memrdWindow (a : BitVec 14)
  | memrdRam (a : BitVec 15)
  | memwrLow (a : BitVec 14) (v : Byte)
  | memwrWindow (a : BitVec 14) (v : Byte)
  | memwrRam (a : BitVec 15) (v : Byte)
  -- format TXN: ports
  | iord0
  | iowr0 (v : Byte)
  | iord1
  | iowr1 (v : Byte)
  | iord2
  | iowr2 (v : Byte)
  | iord3
  | iowr3 (v : Byte)
  | iord4
  | iowr4 (v : Byte)
  | iord16
  | iowr16 (v : Byte)
  | iord17
  | iowr17 (v : Byte)
  | iordOther (p : Word)
  | iowrOther (p : Word) (v : Byte)
  -- format HOSTOP (30_encoding.md R122)
  | construct (args : ConstructArgs)
  | hardReset
  | frameAdvance
  | sendFile (bytes : List Byte)
  | saveText
  | loadText (snap : Snapshot)
  | saveBinary
  | loadBinary (bytes : List Byte)
  | domainRead (a : Nat)
  | domainWrite (a : Nat) (v : Byte)
  | getFramebuffer
  | setButtons (names : List Line)
  | getCounter (which : Counter)
  | setCounter (which : Counter) (n : Nat)
  | dispose
  | irqAck
deriving DecidableEq, Repr

/-- The three formats of spec/opcode_table.json. -/
inductive Format where
  | dcmd
  | txn
  | hostop
deriving DecidableEq, Repr

/-- The arguments of a host operation, which "are not part of the word" (30_encoding.md R122); each operation reads those it
has and no other. -/
structure HostArgs where
  con : ConstructArgs
  bytes : List Byte
  snap : Snapshot
  addr : Nat
  value : Byte
  names : List Line
  which : Counter
  count : Nat
deriving DecidableEq, Repr

/-- One operation as an agent presents it: its format, its word and data byte as bytes (the word's low byte first, entry 8),
and the arguments of a host operation. -/
structure Slot where
  format : Format
  bytes : List Byte
  args : HostArgs
deriving DecidableEq, Repr

end Sys2Proof
end

