-- ==== Sys2Proof/Machine/Defaults.lean ====
section
/-! DEFINITION. The default values of the parameters (00_scope.md R9) and the constraints a model checks at construction
(R10, 44_input_mux.md R224), and the markers of a snapshot's text. Nearly every default is the spec's decision or general knowledge, not the source's
(entry 1); those the spec leaves OPEN are this model's (entry 22), and so is the engine of the reset state (entry 3). -/

namespace Sys2Proof.Machine

/-- The name of the ON key (48_host_interface.md R313); it is in no row group. -/
def onName : Line := asc "ON"

/-- The default `KEYMAP` (44_input_mux.md R223). -/
def defaultKeymap : List (List (Line × Nat)) :=
  [ [(asc "DOWN", 0), (asc "LEFT", 1), (asc "RIGHT", 2), (asc "UP", 3)],
    [(asc "ENTER", 0), (asc "PLUS", 1), (asc "MINUS", 2), (asc "MULTIPLY", 3), (asc "DIVIDE", 4), (asc "EXP", 5),
     (asc "CLEAR", 6)],
    [(asc "DASH", 0), (asc "3", 1), (asc "6", 2), (asc "9", 3), (asc "PARACLOSE", 4), (asc "TAN", 5), (asc "VARS", 6)],
    [(asc "DOT", 0), (asc "2", 1), (asc "5", 2), (asc "8", 3), (asc "PARAOPEN", 4), (asc "COS", 5), (asc "PRGM", 6),
     (asc "STAT", 7)],
    [(asc "0", 0), (asc "1", 1), (asc "4", 2), (asc "7", 3), (asc "COMMA", 4), (asc "SIN", 5), (asc "MATRIX", 6),
     (asc "X", 7)],
    [(asc "STO", 1), (asc "LN", 2), (asc "LOG", 3), (asc "SQUARED", 4), (asc "NEG1", 5), (asc "MATH", 6),
     (asc "ALPHA", 7)],
    [(asc "GRAPH", 0), (asc "TRACE", 1), (asc "ZOOM", 2), (asc "WINDOW", 3), (asc "Y", 4), (asc "2ND", 5),
     (asc "MODE", 6), (asc "DEL", 7)] ]

/-- The model's `TEXT_KEYS` (OPEN, entry 21), in the order of 48_host_interface.md R301. -/
def defaultTextKeys : List Line :=
  [ asc "IRQ_LINE", asc "NMI_LINE", asc "RAM", asc "VRAM", asc "BANK_LOW", asc "BANK_HIGH", asc "DISP_MODE",
    asc "DISP_DIR", asc "DISP_X", asc "DISP_Y", asc "CURSOR_MOVED", asc "KEY_MASK", asc "MASK_ON", asc "ON_LATCH" ] ++
  [ asc "LINK_OUT", asc "LINK_IN", asc "LINK_ACTIVE", asc "LK_STATE", asc "LK_QUEUE", asc "LK_BITS", asc "LK_STEP",
    asc "LK_CUR", asc "LK_TOSEND", asc "LK_CONT", asc "XFER_OPEN", asc "XFER_BYTES", asc "XFER_POS", asc "XFER_HDR",
    asc "XFER_VAR" ] ++
  [ asc "FRAME_COUNT", asc "LAG_COUNT", asc "LAG_FLAG", asc "IS_LAG" ]

/-- An engine that issues nothing in any run (40_cpu_sequencer.md R132: `k >= 0`); its reset state is the empty block and its
serializer the plain form (entries 3, 21). -/
def silentEngine : Engine where
  openMark := asc "[CPU]"
  closeMark := asc "[/CPU]"
  kind := .table { resetBlock := [], cases := [], codec := [] }

/-- The default order of a text: the fields in the order of 48_host_interface.md R301, then the CPU block (entry 21). -/
def defaultTextOrder : List TextItem := (List.range 33).map .field ++ [.cpuBlock]

/-- The default parameters (00_scope.md R9). -/
def defaultParams : Params where
  addrBits := 16
  portBits := 16
  lowEnd := 0x4000
  ramBase := 0x8000
  ramSize := 0x8000
  bankLowBits := 3
  bankHighSrcBit := 4
  xMask := 0x0F
  staleReadAdvances := true
  vramOob := .stop
  filterScope := .tickOnly
  prepareFallthrough := true
  port4Const := 0xFF
  stOnUp := 0x08
  stLinkIdle := 0x02
  keymap := defaultKeymap
  burstsPerFrame := 5
  cyclesPerBurst := 10000
  linkMagic := #v[0x2A, 0x2A, 0x54, 0x49, 0x38, 0x33, 0x2A, 0x2A, 0x1A, 0x0A, 0x00]
  linkSizeOffset := 53
  linkDataStart := 55
  linkOverhead := 57
  linkLenOffset := 2
  linkReq := #v[0x03, 0xC9]
  linkReqCkStart := 2
  linkData := #v[0x03, 0x15]
  linkDataCkStart := 2
  linkOomSentinel := 0x36
  linkEot := #v[0x03, 0x92, 0x00, 0x00]
  linkOomAck := #v[0x03, 0x56, 0x01, 0x00]
  fbOn := 0x00000000
  fbOff := 0xFFFFFFFF
  domainEndian := .little
  textKeys := defaultTextKeys
  machineName := asc "CORE"
  startBrackets := (asc "[", asc "]")
  endBrackets := (asc "[/", asc "]")
  textOrder := defaultTextOrder

/-- No two entries are equal. -/
def noRepeats {α : Type} [DecidableEq α] (l : List α) : Bool :=
  match l with
  | [] => true
  | x :: l' => !l'.contains x && noRepeats l'

/-- 44_input_mux.md R224: seven groups, a name in at most one of them, bits 0 to 7, and no two buttons of a group on one bit.
DESIGN CHOICE (entry 38): R224's list does not name ON, so a table that lists ON in a group is accepted, and the matrix then
reacts to ON, although R221 (f) says that ON is in no group. DEDUCED (entry 46): a name listed twice within one group is
refused, because with two bits for one name the law of R225 fails, although R224 says "at most one group" only. -/
def keymapOk (km : List (List (Line × Nat))) : Bool :=
  decide (km.length = 7) && noRepeats (km.flatten.map (·.1)) &&
    km.all fun g => noRepeats (g.map (·.2)) && g.all fun e => decide (e.2 < 8)

/-- The memory map constraints of 00_scope.md R10. (`RAM_BASE + RAM_SIZE` below 2^`ADDR_BITS` leaves a hole, which 20_memory.md
R74 covers.) -/
def mapOk (p : Params) : Bool :=
  decide (0 < p.lowEnd) && decide (p.lowEnd < p.ramBase) && decide (p.ramBase ≤ 2 ^ p.addrBits) &&
    decide (p.lowEnd = p.bankSize) && decide (0 < p.ramSize) && decide (p.ramSize &&& (p.ramSize - 1) = 0) &&
    decide (p.ramBase + p.ramSize ≤ 2 ^ p.addrBits)

/-- What `CONSTRUCT` checks of the parameters (70_reset_and_hazards.md R351: "the constraints of 00_scope.md rule R10", and
44_input_mux.md R224). DESIGN CHOICE: a `TEXT_KEYS` that is not 33 distinct keys (entry 39), an order of the text that does not
name every field and the CPU block once (entry 50), and a `BANK_HIGH_SRC_BIT` that is no bit of a byte or one that `link_out` is
loaded from (entry 44), are accepted. -/
def paramsOk (p : Params) : Bool := mapOk p && keymapOk p.keymap && decide (0 < p.burstsPerFrame)

/-- The markers that bracket a snapshot's text: the machine name between the two parts of each (48_host_interface.md R302; OPEN,
92_eei_decisions.md D36; the defaults are entry 21's). -/
def startMarker (p : Params) : Line := p.startBrackets.1 ++ p.machineName ++ p.startBrackets.2

def endMarker (p : Params) : Line := p.endBrackets.1 ++ p.machineName ++ p.endBrackets.2

end Sys2Proof.Machine
end

