-- ==== Sys2Proof/WellFormed.lean ====
section
/-! DEFINITION. Which terms of `Instr` are operations of CORE: the checks the type itself does not make. The decoder yields
no term that fails them, so no operation is refused for them. -/

namespace Sys2Proof

/-- The seven implemented port numbers (30_encoding.md R102). -/
def listedPorts : List Word := [0, 1, 2, 3, 4, 16, 17]

/-- An "any other port" number (30_encoding.md R102): those rows of the table give way to the more specific ones. -/
def isOtherPort (p : Word) : Bool := !listedPorts.contains p

/-- The term is an operation of CORE. -/
def Instr.wf : Instr → Bool
  | .dispMode _ => true
  | .dispNop23 _ => true
  | .dispDir _ => true
  | .dispScroll8 _ => true
  | .dispScroll16 _ => true
  | .dispScroll32 _ => true
  | .dispSetx _ _ => true
  | .dispSety _ => true
  | .dispContrast _ => true
  | .memrdLow _ => true
  | .memrdWindow _ => true
  | .memrdRam _ => true
  | .memwrLow _ _ => true
  | .memwrWindow _ _ => true
  | .memwrRam _ _ => true
  | .iord0 => true
  | .iowr0 _ => true
  | .iord1 => true
  | .iowr1 _ => true
  | .iord2 => true
  | .iowr2 _ => true
  | .iord3 => true
  | .iowr3 _ => true
  | .iord4 => true
  | .iowr4 _ => true
  | .iord16 => true
  | .iowr16 _ => true
  | .iord17 => true
  | .iowr17 _ => true
  | .iordOther p => isOtherPort p
  | .iowrOther p _ => isOtherPort p
  | .construct _ => true
  | .hardReset => true
  | .frameAdvance => true
  | .sendFile _ => true
  | .saveText => true
  | .loadText _ => true
  | .saveBinary => true
  | .loadBinary _ => true
  | .domainRead _ => true
  | .domainWrite _ _ => true
  | .getFramebuffer => true
  | .setButtons _ => true
  | .getCounter _ => true
  | .setCounter _ _ => true
  | .dispose => true
  | .irqAck => true

end Sys2Proof
end

