-- ==== Sys2Proof/Decode.lean ====
section
/-! DEFINITION. The decoder, total on any presented operation and rejecting by name, and after it the encoder, both from
the encoding tables of 30_encoding.md (R101, R102, R110, R122). The order of the bytes of a word and the place of the
arguments are the model's notation (entries 8 and 9): the words exist on no bus (R101, R122). -/

namespace Sys2Proof

/-- Why a presented operation is no operation of CORE. -/
inductive DecodeError where
  | truncated     -- fewer bytes than the format's word has
  | reservedBits  -- a bit above the format's word is set
  | missingData   -- a write without its data byte
deriving DecidableEq, Repr

/-- The display command byte by the map of R110; total: the nine rows cover all 256 values (R109). -/
def decodeDcmd (c : Byte) : Instr :=
  if c.extractLsb' 1 7 = 0b0000000#7 then .dispMode (c.extractLsb' 0 1)
  else if c.extractLsb' 1 7 = 0b0000001#7 then .dispNop23 (c.extractLsb' 0 1)
  else if c.extractLsb' 2 6 = 0b000001#6 then .dispDir (c.extractLsb' 0 2)
  else if c.extractLsb' 3 5 = 0b00001#5 then .dispScroll8 (c.extractLsb' 0 3)
  else if c.extractLsb' 4 4 = 0b0001#4 then .dispScroll16 (c.extractLsb' 0 4)
  else if c.extractLsb' 5 3 = 0b001#3 then .dispScroll32 (c.extractLsb' 0 5)
  else if c.extractLsb' 6 2 = 0b01#2 then .dispSetx (c.extractLsb' 5 1) (c.extractLsb' 0 5)
  else if c.extractLsb' 6 2 = 0b10#2 then .dispSety (c.extractLsb' 0 6)
  else .dispContrast (c.extractLsb' 0 6)

/-- `MEMRD`, by region: address bits 15:14 are 00 low ROM, 01 window, 1x RAM (R102). -/
def decodeMemrd (a : Word) : Instr :=
  if a.extractLsb' 14 2 = 0b00#2 then .memrdLow (a.extractLsb' 0 14)
  else if a.extractLsb' 14 2 = 0b01#2 then .memrdWindow (a.extractLsb' 0 14)
  else .memrdRam (a.extractLsb' 0 15)

/-- `MEMWR`, by region. -/
def decodeMemwr (a : Word) (v : Byte) : Instr :=
  if a.extractLsb' 14 2 = 0b00#2 then .memwrLow (a.extractLsb' 0 14) v
  else if a.extractLsb' 14 2 = 0b01#2 then .memwrWindow (a.extractLsb' 0 14) v
  else .memwrRam (a.extractLsb' 0 15) v

/-- `IORD`: the port number is compared whole (R102). -/
def decodeIord (p : Word) : Instr :=
  if p = 0 then .iord0
  else if p = 1 then .iord1
  else if p = 2 then .iord2
  else if p = 3 then .iord3
  else if p = 4 then .iord4
  else if p = 16 then .iord16
  else if p = 17 then .iord17
  else .iordOther p

/-- `IOWR`. -/
def decodeIowr (p : Word) (v : Byte) : Instr :=
  if p = 0 then .iowr0 v
  else if p = 1 then .iowr1 v
  else if p = 2 then .iowr2 v
  else if p = 3 then .iowr3 v
  else if p = 4 then .iowr4 v
  else if p = 16 then .iowr16 v
  else if p = 17 then .iowr17 v
  else .iowrOther p v

/-- The `TXN` word `kk aaaaaaaaaaaaaaaa` (R101), its low byte first, and the data byte of a write. -/
def decodeTxn (bytes : List Byte) : Except DecodeError Instr :=
  match bytes with
  | b0 :: b1 :: b2 :: data =>
    if b2.extractLsb' 2 6 ≠ 0#6 then .error .reservedBits
    else if b2.extractLsb' 0 2 = 0b00#2 then .ok (decodeMemrd (b1 ++ b0))
    else if b2.extractLsb' 0 2 = 0b10#2 then .ok (decodeIord (b1 ++ b0))
    else
      match data with
      | [] => .error .missingData
      | v :: _ =>
        if b2.extractLsb' 0 2 = 0b01#2 then .ok (decodeMemwr (b1 ++ b0) v)
        else .ok (decodeIowr (b1 ++ b0) v)
  | _ => .error .truncated

/-- The host operation of number `h` (R122), with the arguments it has. -/
def hostOperation (h : BitVec 4) (args : HostArgs) : Instr :=
  if h = 0 then .construct args.con
  else if h = 1 then .hardReset
  else if h = 2 then .frameAdvance
  else if h = 3 then .sendFile args.bytes
  else if h = 4 then .saveText
  else if h = 5 then .loadText args.snap
  else if h = 6 then .saveBinary
  else if h = 7 then .loadBinary args.bytes
  else if h = 8 then .domainRead args.addr
  else if h = 9 then .domainWrite args.addr args.value
  else if h = 10 then .getFramebuffer
  else if h = 11 then .setButtons args.names
  else if h = 12 then .getCounter args.which
  else if h = 13 then .setCounter args.which args.count
  else if h = 14 then .dispose
  else .irqAck

/-- The `HOSTOP` word, four bits (R122). -/
def decodeHostop (bytes : List Byte) (args : HostArgs) : Except DecodeError Instr :=
  match bytes with
  | b :: _ =>
    if b.extractLsb' 4 4 ≠ 0#4 then .error .reservedBits
    else .ok (hostOperation (b.extractLsb' 0 4) args)
  | [] => .error .truncated

/-- The decoder. Bytes after an operation's own are not looked at (entry 8). -/
def decode (s : Slot) : Except DecodeError Instr :=
  match s.format with
  | .dcmd =>
    match s.bytes with
    | c :: _ => .ok (decodeDcmd c)
    | [] => .error .truncated
  | .txn => decodeTxn s.bytes
  | .hostop => decodeHostop s.bytes s.args

/-- The arguments of an operation that is given none: empty sequences, zeros, the default parameters with an image of zeros of
their `ROM_SIZE` and an engine that does nothing, and a text that names no field (entry 9). -/
def noArgs : HostArgs where
  con := { rom := { size := 0x40000, cells := [] }, startPc := 0,
           hooks := { read := false, write := false, poll := false }, engine := Machine.silentEngine,
           params := Machine.defaultParams }
  bytes := []
  snap := { text := [Machine.startMarker Machine.defaultParams, Machine.endMarker Machine.defaultParams], origin := none }
  addr := 0
  value := 0
  names := []
  which := .frame
  count := 0

/-- A `DCMD` byte as presented. -/
def dcmdSlot (c : Byte) : Slot := { format := .dcmd, bytes := [c], args := noArgs }

/-- A `TXN` word (kind `k`, address or port `a`) and its data bytes as presented. -/
def txnSlot (k : BitVec 2) (a : Word) (data : List Byte) : Slot :=
  { format := .txn, bytes := a.extractLsb' 0 8 :: a.extractLsb' 8 8 :: (0#6 ++ k) :: data, args := noArgs }

/-- A `HOSTOP` word and its arguments as presented. -/
def hostopSlot (h : BitVec 4) (args : HostArgs) : Slot :=
  { format := .hostop, bytes := [0#4 ++ h], args := args }

/-- The encoder, from the same tables. -/
def encode : Instr → Slot
  | .dispMode m => dcmdSlot (0b0000000#7 ++ m)
  | .dispNop23 n => dcmdSlot (0b0000001#7 ++ n)
  | .dispDir d => dcmdSlot (0b000001#6 ++ d)
  | .dispScroll8 s => dcmdSlot (0b00001#5 ++ s)
  | .dispScroll16 s => dcmdSlot (0b0001#4 ++ s)
  | .dispScroll32 s => dcmdSlot (0b001#3 ++ s)
  | .dispSetx u x => dcmdSlot (0b01#2 ++ u ++ x)
  | .dispSety r => dcmdSlot (0b10#2 ++ r)
  | .dispContrast k => dcmdSlot (0b11#2 ++ k)
  | .memrdLow a => txnSlot 0b00#2 (0b00#2 ++ a) []
  | .memrdWindow a => txnSlot 0b00#2 (0b01#2 ++ a) []
  | .memrdRam a => txnSlot 0b00#2 (0b1#1 ++ a) []
  | .memwrLow a v => txnSlot 0b01#2 (0b00#2 ++ a) [v]
  | .memwrWindow a v => txnSlot 0b01#2 (0b01#2 ++ a) [v]
  | .memwrRam a v => txnSlot 0b01#2 (0b1#1 ++ a) [v]
  | .iord0 => txnSlot 0b10#2 0 []
  | .iowr0 v => txnSlot 0b11#2 0 [v]
  | .iord1 => txnSlot 0b10#2 1 []
  | .iowr1 v => txnSlot 0b11#2 1 [v]
  | .iord2 => txnSlot 0b10#2 2 []
  | .iowr2 v => txnSlot 0b11#2 2 [v]
  | .iord3 => txnSlot 0b10#2 3 []
  | .iowr3 v => txnSlot 0b11#2 3 [v]
  | .iord4 => txnSlot 0b10#2 4 []
  | .iowr4 v => txnSlot 0b11#2 4 [v]
  | .iord16 => txnSlot 0b10#2 16 []
  | .iowr16 v => txnSlot 0b11#2 16 [v]
  | .iord17 => txnSlot 0b10#2 17 []
  | .iowr17 v => txnSlot 0b11#2 17 [v]
  | .iordOther p => txnSlot 0b10#2 p []
  | .iowrOther p v => txnSlot 0b11#2 p [v]
  | .construct args => hostopSlot 0 { noArgs with con := args }
  | .hardReset => hostopSlot 1 noArgs
  | .frameAdvance => hostopSlot 2 noArgs
  | .sendFile bytes => hostopSlot 3 { noArgs with bytes := bytes }
  | .saveText => hostopSlot 4 noArgs
  | .loadText snap => hostopSlot 5 { noArgs with snap := snap }
  | .saveBinary => hostopSlot 6 noArgs
  | .loadBinary bytes => hostopSlot 7 { noArgs with bytes := bytes }
  | .domainRead a => hostopSlot 8 { noArgs with addr := a }
  | .domainWrite a v => hostopSlot 9 { noArgs with addr := a, value := v }
  | .getFramebuffer => hostopSlot 10 noArgs
  | .setButtons names => hostopSlot 11 { noArgs with names := names }
  | .getCounter which => hostopSlot 12 { noArgs with which := which }
  | .setCounter which n => hostopSlot 13 { noArgs with which := which, count := n }
  | .dispose => hostopSlot 14 noArgs
  | .irqAck => hostopSlot 15 noArgs

/-- A word of the opcode table, `nbits` wide and numbered as the table numbers it, as an agent presents it with every bit
above `nbits` zero. Words of more than 8 bits are `TXN`; of the words of at most 8 bits, those below 16 are taken as
`HOSTOP` and the others as `DCMD`, because a display command reaches CORE only as the data byte of `IOWR 16` (entry 10). -/
def tableSlot (nbits w : Nat) : Slot :=
  if 8 < nbits then
    { format := .txn,
      bytes := [BitVec.ofNat 8 w, BitVec.ofNat 8 (w / 2 ^ 8), BitVec.ofNat 8 (w / 2 ^ 16), BitVec.ofNat 8 (w / 2 ^ 24)],
      args := noArgs }
  else if w < 16 then { format := .hostop, bytes := [BitVec.ofNat 8 w], args := noArgs }
  else { format := .dcmd, bytes := [BitVec.ofNat 8 w], args := noArgs }

/-- The instruction the decoder reads from a word of the opcode table. -/
def decodeTableWord (nbits w : Nat) : Option Instr :=
  match decode (tableSlot nbits w) with
  | .ok i => some i
  | .error _ => none

end Sys2Proof
end

