-- ==== Sys2Proof/Machine/Memory.lean ====
section
/-! DEFINITION. Byte memories as plain data (20_memory.md R70, R71): the bytes that differ from what an unlisted address
reads as, by strictly rising address. ROM, RAM and VRAM are three such memories; `d` is what an unlisted address of the
memory reads as. -/

namespace Sys2Proof.Machine

/-- A byte memory in canonical form (`Memory.wf`). -/
abbrev Memory := List Host.Cell

/-- What an unlisted offset reads as: ROM 0x00 (entry 4), RAM 0xFF (10_state.md R25: "every byte is 0xFF"), VRAM 0x00
(R26, entry 5). -/
def romFill : Byte := 0x00
def ramFill : Byte := 0xFF
def vramFill : Byte := 0x00

/-- The byte at `a`. -/
def Memory.read (d : Byte) (m : Memory) (a : Nat) : Byte :=
  match m with
  | [] => d
  | c :: m' => if c.1 = a then c.2 else Memory.read d m' a

/-- Put `v` at `a`, keeping the canonical form: writing the fill value removes the entry. -/
def Memory.write (d : Byte) (m : Memory) (a : Nat) (v : Byte) : Memory :=
  match m with
  | [] => if v = d then [] else [(a, v)]
  | c :: m' =>
    if a < c.1 then (if v = d then c :: m' else (a, v) :: c :: m')
    else if a = c.1 then (if v = d then m' else (a, v) :: m')
    else c :: Memory.write d m' a v

/-- The memory whose bytes from offset `i` on are `bs`. -/
def Memory.ofBytesFrom (d : Byte) (i : Nat) (bs : List Byte) : Memory :=
  match bs with
  | [] => []
  | b :: bs' => if b = d then Memory.ofBytesFrom d (i + 1) bs' else (i, b) :: Memory.ofBytesFrom d (i + 1) bs'

/-- The memory of `n` bytes that the cells give; of two cells for one offset the first counts. -/
def Memory.ofCells (d : Byte) (n : Nat) (cells : List Host.Cell) : Memory :=
  match cells with
  | [] => []
  | c :: rest =>
    if c.1 < n then Memory.write d (Memory.ofCells d n rest) c.1 c.2 else Memory.ofCells d n rest

/-- The `n` bytes from offset `i` on. -/
def Memory.toBytesFrom (d : Byte) (m : Memory) (i : Nat) (n : Nat) : List Byte :=
  match n with
  | 0 => []
  | n' + 1 => Memory.read d m i :: Memory.toBytesFrom d m (i + 1) n'

/-- Every address is at least `lo`, addresses rise strictly, and no entry equals the fill. -/
def Memory.wfFrom (d : Byte) (lo : Nat) (m : Memory) : Bool :=
  match m with
  | [] => true
  | c :: m' => decide (lo ≤ c.1) && decide (c.2 ≠ d) && Memory.wfFrom d (c.1 + 1) m'

/-- The canonical form. -/
def Memory.wf (d : Byte) (m : Memory) : Bool := Memory.wfFrom d 0 m

/-- No entry lies at or beyond `n`. -/
def Memory.below (n : Nat) (m : Memory) : Bool := m.all fun c => decide (c.1 < n)

end Sys2Proof.Machine
end

