-- ==== Sys2Proof/Machine/State.lean ====
section
/-! DEFINITION. The state of CORE (10_state.md R20 to R49) as plain data, in the spec's own groups, with the inputs and
outputs that the spec says are no state of CORE in fields of their own (R51), and the state after `CONSTRUCT` (R52). -/

namespace Sys2Proof.Machine

/-- The mapping registers (R27, R28). `bank_low` is `BANK_LOW_BITS` bits wide, a number below 2^`BANK_LOW_BITS` (entry 27). -/
structure Mapping where
  bankLow : Nat
  bankHigh : BitVec 1
deriving DecidableEq, Repr

/-- The display registers (R29 to R33). -/
structure Display where
  mode : BitVec 1
  dir : BitVec 2
  x : BitVec 5
  y : BitVec 6
  moved : Bool        -- `cursor_moved`
deriving DecidableEq, Repr

/-- The keyboard and status registers (R34 to R36). -/
structure Keyboard where
  keyMask : Byte
  maskOn : Bool
  onLatch : Bool
deriving DecidableEq, Repr

/-- `lk_state` (R40). -/
inductive LinkPhase where
  | inactive
  | prepareReceive
  | prepareSend
  | receive
  | send
deriving DecidableEq, Repr

/-- `lk_cont` (R46), and the harness's tag `Test` (46_link_protocol.md R261). -/
inductive Continuation where
  | none
  | receiveReqAck
  | sendVariableData
  | receiveDataAck
  | endTransmission
  | endOutOfMemory
  | finalize
  | test
deriving DecidableEq, Repr

/-- An open `xfer_file` (R47): its bytes and the position in them. -/
structure OpenFile where
  bytes : List Byte
  pos : Nat
deriving DecidableEq, Repr

/-- The link lines and the link session (R37 to R47). -/
structure Link where
  lineOut : BitVec 2          -- `link_out`
  lineIn : BitVec 2           -- `link_in`
  active : Bool               -- `link_active`
  phase : LinkPhase           -- `lk_state`
  queue : List Byte           -- `lk_queue`, head first
  bits : Nat                  -- `lk_bits`
  bitStep : Nat               -- `lk_step`
  cur : Byte                  -- `lk_cur`
  toSend : BitVec 16          -- `lk_tosend`
  cont : Continuation         -- `lk_cont`
  file : Option OpenFile      -- `xfer_file`
  hdr : List Byte             -- `xfer_hdr`
  var : List Byte             -- `xfer_var`
  testCount : Nat             -- the harness's `test_count`, no state of CORE (46_link_protocol.md R261)
deriving DecidableEq, Repr

/-- Counters and lag (R48, R49). DESIGN CHOICE (entry 49): "the host may also read `is_lag`" (47_frame_scheduler.md R295), for which
48_host_interface.md R300 lists no operation; the host reads it as the field `isLag` of the state. -/
structure Counters where
  frame : Nat
  lag : Nat
  lagFlag : Bool
  isLag : Bool
deriving DecidableEq, Repr

/-- A notification of a host callback (48_host_interface.md R314). -/
inductive HookEvent where
  | read (addr : Nat)
  | write (addr : Nat)
  | poll
deriving DecidableEq, Repr

/-- The kinds of `FormatError` (60_exceptions.md R321). -/
inductive FormatKind where
  | badSignature
  | badLength
  | badChecksum
deriving DecidableEq, Repr

/-- What the last host operation returned to the host (10_state.md R51). -/
inductive Reply where
  | none
  | accepted                          -- `SEND_FILE` succeeded
  | formatError (k : FormatKind)      -- `SEND_FILE` failed
  | snapshot (snap : Snapshot)        -- `SAVE_TEXT`: the text, and the instance it is of (entry 36)
  | notices (unknownKeys : List Line) -- `LOAD_TEXT`: one UnknownKey notice per entry
  | bytes (bs : List Byte)            -- `SAVE_BINARY`
  | byte (v : Byte)                   -- `DOMAIN_READ`
  | pixels (ps : List Pixel)          -- `GET_FRAMEBUFFER`
  | count (n : Nat)                   -- `GET_COUNTER`
deriving DecidableEq, Repr

/-- The whole state. The first group is fixed at construction, the last is the model's own: inputs, outputs, and whether a
`FRAME_ADVANCE` is in progress (00_scope.md R7). -/
structure State where
  cfg : Params
  startPc : Nat
  hooks : HookBundle
  engine : Engine
  cpu : Cpu
  irqLine : Bool
  nmiLine : Bool
  rom : Memory
  ram : Memory
  vram : Memory
  map : Mapping
  disp : Display
  kbd : Keyboard
  link : Link
  ctr : Counters
  buttons : List Line
  pollFeed : List (List Line)
  inFrame : Bool
  pending : List Slot
  disposed : Bool
  delivered : List Byte
  hookLog : List HookEvent
  reply : Reply
deriving DecidableEq, Repr

/-- The points where the source defines no behaviour (60_exceptions.md R333), and an address that does not exist: the model
stops. -/
inductive Fault where
  /-- Raised by a mode-1 display data access or a mode-0 display data read whose VRAM offset is 768 or more, when
  `VRAM_OOB` is `fault` (43_display.md R204). Safe: no behaviour of the machine is claimed. -/
  | vramRange
  /-- Raised by a link tick that must take a byte from an empty queue: `PrepareReceive` (45_link_fsm.md R234), and the
  stage SendVariableData with fewer than six captured bytes (entry 24). Safe, and in no state a session reaches. -/
  | linkQueueEmpty
  /-- Raised by the Dispatcher, and by step, on a transaction whose address is not below 2^`ADDR_BITS` or whose port number is
  not below 2^`PORT_BITS` (20_memory.md R70): the machine has no such address (entry 27). Safe: no behaviour is claimed. -/
  | noSuchAddress
deriving DecidableEq, Repr

/-- Operations that are not accepted. -/
inductive Refusal where
  /-- An instruction without a meaning yet, by its mnemonic. Raised by an arm of exec. Safe. -/
  | notModelled (mnemonic : String)
  /-- Raised by `CONSTRUCT` when a constraint of 00_scope.md R10 or 44_input_mux.md R224 fails or the ROM image's length is not
  `ROM_SIZE` (70_reset_and_hazards.md R351, U5). The machine itself refuses, so it is faithful and safe. -/
  | badConstruction
  /-- Raised by `SEND_FILE` while a session exists or a file is open (46_link_protocol.md R263, U7 "refuse"). Safe. -/
  | sessionOpen
  /-- Raised by `LOAD_TEXT` on a recognised key whose value does not parse or does not fit its field, a missing start or end
  marker, or a CPU block the engine rejects (48_host_interface.md R304, U12 "refuse"). Safe. -/
  | badSnapshot
  /-- Raised by `LOAD_TEXT` on a snapshot known to be of an instance with another ROM, `START_PC`, parameters or engine
  (70_reset_and_hazards.md R367, U15 "refuse; no claim"). Safe. -/
  | otherInstance
  /-- Raised by the harness entry `start_send` with a count of 0 (45_link_fsm.md R231, U3 "refuse"). Safe. -/
  | sendCountZero
  /-- Raised by step on any operation but `CONSTRUCT` after `DISPOSE` (48_host_interface.md R311). Safe. -/
  | instanceDisposed
  /-- Raised by step on a presented operation whose bytes are no operation's (entry 8). Safe. -/
  | undecodable
  /-- Raised by step on a host operation presented while a `FRAME_ADVANCE` is in progress (40_cpu_sequencer.md R141, U6
  "stuck"). Unsafe for a claim about hosts that break R141 (entry 12). -/
  | frameInProgress
  /-- Raised by step on a transaction or `IRQ_ACK` presented while no `FRAME_ADVANCE` is in progress (00_scope.md R7,
  40_cpu_sequencer.md R141 "gives these forbidden interleavings no step"). Unsafe for a claim about engines that break R141
  (entry 12). -/
  | noFrame
deriving DecidableEq, Repr

/-- The mapping, display, keyboard and link registers after `HARD_RESET` (R52). -/
def Mapping.reset : Mapping := { bankLow := 0, bankHigh := 0 }

def Display.reset : Display := { mode := 0, dir := 0, x := 0, y := 0, moved := false }

def Keyboard.reset : Keyboard := { keyMask := 0, maskOn := false, onLatch := false }

def Link.reset : Link where
  lineOut := 0
  lineIn := 0
  active := false
  phase := .inactive
  queue := []
  bits := 0
  bitStep := 0
  cur := 0
  toSend := 0
  cont := .none
  file := none
  hdr := []
  var := []
  testCount := 0

def Counters.reset : Counters := { frame := 0, lag := 0, lagFlag := false, isLag := false }

/-- The state after `CONSTRUCT` (R52) with the default parameters. The construction inputs `ROM`, `START_PC`, the hooks and
the engine are OPEN: the values here are the model's (entries 3, 4, 15). Nothing is pressed and nothing is presented. -/
def State.reset : State where
  cfg := defaultParams
  startPc := 0
  hooks := { read := true, write := true, poll := true }
  engine := silentEngine
  cpu := { pc := 0, block := [] }
  irqLine := false
  nmiLine := false
  rom := []
  ram := []
  vram := []
  map := Mapping.reset
  disp := Display.reset
  kbd := Keyboard.reset
  link := Link.reset
  ctr := Counters.reset
  buttons := []
  pollFeed := []
  inFrame := false
  pending := []
  disposed := false
  delivered := []
  hookLog := []
  reply := .none

end Sys2Proof.Machine
end

