-- ==== Sys2Proof/Machine/Ops.lean ====
section
/-! DEFINITION. The named operations over State that the meanings share: results and their sequencing, one update per
state group, the widths, the memories and the memory map, hook notifications, delivered bytes, and the conditions of
60_exceptions.md: returning a `FormatError` to the host, raising and acknowledging the interrupt. -/

namespace Sys2Proof

/-- The machine has the address or the port number: "addresses 0 to 2^`ADDR_BITS` - 1", "port numbers 0 to 2^`PORT_BITS` - 1"
(20_memory.md R70). -/
def Transaction.fits (p : Params) (t : Transaction) : Bool :=
  match t with
  | .memrd a => decide (a < 2 ^ p.addrBits)
  | .memwr a _ => decide (a < 2 ^ p.addrBits)
  | .iord q => decide (q < 2 ^ p.portBits)
  | .iowr q _ => decide (q < 2 ^ p.portBits)

/-- `cpu.PC` is `bits` bits wide (10_state.md R22). -/
def Cpu.fitTo (bits : Nat) (c : Cpu) : Cpu := { c with pc := c.pc % 2 ^ bits }

end Sys2Proof

namespace Sys2Proof.Machine

/-- What an operation answers. -/
abbrev Result := Host.Outcome State Fault Refusal

/-- Go on with `f` from the next state; a fault or a refusal ends it. -/
def andThen (r : Result) (f : State → Result) : Result :=
  match r with
  | .next s => f s
  | .fault e => .fault e
  | .refused e => .refused e

/-! One update per group of State. -/

/-- `cpu.PC` keeps its width, whatever is put into it. -/
def State.withCpu (s : State) (c : Cpu) : State := { s with cpu := c.fitTo s.cfg.addrBits }

def State.withIrqLine (s : State) (b : Bool) : State := { s with irqLine := b }

def State.withRam (s : State) (m : Memory) : State := { s with ram := m }

def State.withVram (s : State) (m : Memory) : State := { s with vram := m }

def State.withMap (s : State) (m : Mapping) : State := { s with map := m }

def State.withDisp (s : State) (d : Display) : State := { s with disp := d }

def State.withKbd (s : State) (k : Keyboard) : State := { s with kbd := k }

def State.withLink (s : State) (l : Link) : State := { s with link := l }

def State.withCtr (s : State) (c : Counters) : State := { s with ctr := c }

def State.withButtons (s : State) (b : List Line) : State := { s with buttons := b }

def State.withPollFeed (s : State) (f : List (List Line)) : State := { s with pollFeed := f }

def State.withInFrame (s : State) (b : Bool) : State := { s with inFrame := b }

def State.withPending (s : State) (p : List Slot) : State := { s with pending := p }

def State.withDisposed (s : State) (b : Bool) : State := { s with disposed := b }

def State.withDelivered (s : State) (bs : List Byte) : State := { s with delivered := bs }

def State.withHookLog (s : State) (h : List HookEvent) : State := { s with hookLog := h }

def State.withReply (s : State) (r : Reply) : State := { s with reply := r }

/-- The byte a read returns is delivered to the CPU Engine (40_cpu_sequencer.md R132). -/
def State.deliver (s : State) (v : Byte) : State := s.withDelivered (s.delivered ++ [v])

/-! Host callbacks: a hook that is not registered is a no-op, and none changes the state of CORE (20_memory.md R86, R87,
48_host_interface.md R314). -/

def State.notifyRead (s : State) (addr : Nat) : State :=
  if s.hooks.read then s.withHookLog (s.hookLog ++ [.read addr]) else s

def State.notifyWrite (s : State) (addr : Nat) : State :=
  if s.hooks.write then s.withHookLog (s.hookLog ++ [.write addr]) else s

/-! The memories. -/

def State.romByte (s : State) (off : Nat) : Byte := Memory.read romFill s.rom off

def State.ramByte (s : State) (off : Nat) : Byte := Memory.read ramFill s.ram off

def State.vramByte (s : State) (off : Nat) : Byte := Memory.read vramFill s.vram off

def State.setRamByte (s : State) (off : Nat) (v : Byte) : State := s.withRam (Memory.write ramFill s.ram off v)

def State.setVramByte (s : State) (off : Nat) (v : Byte) : State := s.withVram (Memory.write vramFill s.vram off v)

/-- `bank()` = `bank_low | (bank_high << BANK_LOW_BITS)` (20_memory.md R73). -/
def State.bank (s : State) : Nat := s.map.bankLow ||| (s.map.bankHigh.toNat <<< s.cfg.bankLowBits)

/-- The byte a `MEMRD` of `addr` returns (41_memory_dispatch.md R151). -/
def State.memByte (s : State) (addr : Nat) : Byte :=
  if addr < s.cfg.lowEnd then s.romByte addr
  else if addr < s.cfg.ramBase then s.romByte (s.bank * s.cfg.bankSize + (addr - s.cfg.lowEnd))
  else if addr - s.cfg.ramBase < s.cfg.ramSize then s.ramByte (addr - s.cfg.ramBase)
  else 0xFF

/-- The RAM offset a `MEMWR` of `addr` stores to; `none` where the write is ignored or dropped (R152). -/
def State.storeOffset (s : State) (addr : Nat) : Option Nat :=
  if addr < s.cfg.lowEnd then none
  else if addr < s.cfg.ramBase then none
  else if addr - s.cfg.ramBase < s.cfg.ramSize then some (addr - s.cfg.ramBase)
  else none

/-- `MEMRD addr` (R151): the byte, then the hook. -/
def readMemory (addr : Nat) (s : State) : Result := .next ((s.notifyRead addr).deliver (s.memByte addr))

/-- `MEMWR addr, v` (R152): the store if there is one, then the hook in every case. -/
def writeMemory (addr : Nat) (v : Byte) (s : State) : Result :=
  match s.storeOffset addr with
  | some off => .next ((s.setRamByte off v).notifyWrite addr)
  | none => .next (s.notifyWrite addr)

/-- A read that returns the all-ones sentinel and changes nothing (42_port_dispatch.md R175). -/
def readSentinel (s : State) : Result := .next (s.deliver 0xFF)

/-- A write that is silently dropped (R176). -/
def dropWrite (s : State) : Result := .next s

/-! Exceptional conditions (60_exceptions.md). CORE saves no register, changes no mode and goes to no handler (R327, R330,
R331), and it has no return to restore anything (R328): the conditions are these three. -/

/-- `raise FormatError(k)` (R321): nothing is undone, the file is closed, the error is returned to the host. -/
def raiseFormatError (k : FormatKind) (s : State) : Result :=
  .next ((s.withLink { s.link with file := none }).withReply (.formatError k))

/-- "asserting the interrupt line" (R325): a level, so a second assertion is absorbed (R336). -/
def State.assertIrq (s : State) : State := s.withIrqLine true

/-- The engine's acceptance of the interrupt, as CORE sees it (R327, 40_cpu_sequencer.md R134). -/
def State.acknowledgeIrq (s : State) : State := s.withIrqLine false

/-- The engine's reset function (40_cpu_sequencer.md R138), applied to its state (10_state.md R21). -/
def resetCpu (e : Engine) (c : Cpu) : Cpu :=
  match e.kind with
  | .table t => { c with block := t.resetBlock }
  | .own id => Config.ownReset id c

/-- The registers a `HARD_RESET` writes (70_reset_and_hazards.md R350). `VRAM`, the counters and the lag flags keep their
values (R352), and so do the harness's counter and the model's inputs and outputs (entry 28). `START_PC` is loaded after the
engine's reset, "so that the engine cannot override it". -/
def State.hardReset (s : State) : State :=
  { s with
    ram := []
    map := Mapping.reset
    disp := Display.reset
    kbd := Keyboard.reset
    link := { Link.reset with testCount := s.link.testCount }
    cpu := { resetCpu s.engine s.cpu with pc := s.startPc }
    irqLine := false
    nmiLine := false }

end Sys2Proof.Machine
end

