-- ==== Sys2Proof/Machine/Flags.lean ====
section
/-! DEFINITION. The single-bit status elements and the derived line state. CORE has no condition codes (10_state.md R50);
these are the elements R50 lists, and what sets, clears and reads each. -/

namespace Sys2Proof.Machine

/-- `combined()` = `(link_out | link_in) ^ 3`, recomputed at each use (10_state.md R38). -/
def Link.combined (l : Link) : BitVec 2 := (l.lineOut ||| l.lineIn) ^^^ 3#2

/-- Clear `lag_flag` (42_port_dispatch.md R163, R164). -/
def State.clearLagFlag (s : State) : State := s.withCtr { s.ctr with lagFlag := false }

/-- Set `lag_flag` at the start of a frame (47_frame_scheduler.md R291). -/
def State.setLagFlag (s : State) : State := s.withCtr { s.ctr with lagFlag := true }

/-- `btn(name)`: the live state of a button (48_host_interface.md R313). -/
def State.btn (s : State) (name : Line) : Bool := s.buttons.contains name

/-- Sample the ON button into `on_latch` (40_cpu_sequencer.md R135). -/
def State.sampleOn (s : State) : State := s.withKbd { s.kbd with onLatch := s.btn onName }

/-- A write comes "from code executing out of the low ROM bank" while a transfer is active (42_port_dispatch.md R161). -/
def State.lowBankFiltered (s : State) : Bool := s.link.active && decide (s.cpu.pc < s.cfg.lowEnd)

/-- A bit as a byte. -/
def bitByte (b : Bool) : Byte := if b then 1 else 0

/-- The ON term of the status byte: `mask_on` while ON is pressed, else `ST_ON_UP` (R168). -/
def State.onStatus (s : State) : Byte := if s.btn onName then bitByte s.kbd.maskOn else s.cfg.stOnUp

/-- The link term of the status byte: 0 while `link_active`, else `ST_LINK_IDLE` (R168). -/
def State.linkStatus (s : State) : Byte := if s.link.active then 0 else s.cfg.stLinkIdle

end Sys2Proof.Machine
end

