-- ==== Sys2Proof/Machine/Operands.lean ====
section
/-! DEFINITION. The operand forms: addresses of the memory rows, the data layouts of the ports (30_encoding.md R103 to
R108), the display command fields and the two arithmetics of the display cell (43_display.md R198 to R203). -/

namespace Sys2Proof.Machine

/-! Addresses of the `MEMRD` and `MEMWR` rows, from the offset within the region (30_encoding.md R102). -/

def lowAddr (a : BitVec 14) : Nat := a.toNat

def windowAddr (a : BitVec 14) : Nat := 0x4000 + a.toNat

def ramAddr (a : BitVec 15) : Nat := 0x8000 + a.toNat

/-! Fields of the values written to ports (R103, R106, R107). -/

/-- Port 0: bit `BANK_HIGH_SRC_BIT` goes to `bank_high`. DESIGN CHOICE (entry 44): no rule gives the parameter a range; a bit
beyond the byte is 0, and one of the bits 1:0 goes to `link_out` as well. -/
def port0BankHigh (p : Params) (v : Byte) : BitVec 1 := v.extractLsb' p.bankHighSrcBit 1

/-- Port 0: bits 1:0 go to `link_out`. -/
def port0LineOut (v : Byte) : BitVec 2 := v.extractLsb' 0 2

/-- Port 2: bits `BANK_LOW_BITS`-1:0 go to `bank_low`; with more than 8 of them those beyond the byte are 0 (entry 27). -/
def port2BankLow (p : Params) (v : Byte) : Nat := v.toNat % 2 ^ p.bankLowBits

/-- Port 3: bit 0 goes to `mask_on`. -/
def port3MaskOn (v : Byte) : Bool := v.getLsbD 0

/-! Values read from ports. -/

/-- Port 0: `(bank_high << 4) | (combined() << 2) | link_out` (R104). -/
def State.port0Value (s : State) : Byte := 0#3 ++ s.map.bankHigh ++ s.link.combined ++ s.link.lineOut

/-- Port 3: the composed status byte (R107). -/
def State.port3Value (s : State) : Byte := s.onStatus ^^^ s.linkStatus

/-! The display cell. -/

/-- `row*12 + col`, the mode-1 offset (43_display.md R200). -/
def Display.offset1 (d : Display) : Nat := d.y.toNat * rowStride + d.x.toNat

/-- The pixel column of a mode-0 cell (R201). -/
def Display.pixelCol (d : Display) : Nat := 6 * d.x.toNat

/-- The byte that holds the first pixel of a mode-0 cell (R201). -/
def Display.offset0 (d : Display) : Nat := d.y.toNat * rowStride + d.pixelCol / 8

/-- The place of that pixel from the left of its byte: 0, 2, 4 or 6 (R201). -/
def Display.shift0 (d : Display) : Nat := d.pixelCol % 8

/-- The six pixels at place `s` of the bytes `b0:b1`, in bits 5:0 (R201). -/
def extract6 (b0 b1 : Byte) (s : Nat) : Byte := 0#2 ++ ((b0 ++ b1) >>> (10 - s)).extractLsb' 0 6

/-- The six pixels of a mode-0 write, left-aligned in a byte (R203). -/
def align6 (v : Byte) : Byte := v.extractLsb' 0 6 ++ 0#2

/-- The first byte of a mode-0 write, merged (R203). -/
def mergeFirst (old v : Byte) (s : Nat) : Byte := (old &&& ~~~(0xFC#8 >>> s)) ||| (align6 v >>> s)

/-- The spill byte of a mode-0 write, merged (R203). -/
def mergeSpill (old v : Byte) (s : Nat) : Byte :=
  (old &&& ~~~(0xFC#8 <<< (8 - s))) ||| (align6 v <<< (8 - s))

/-- `auto_move()` (R198): one step in the direction, then both masks, whatever the direction. -/
def Display.autoMove (xMask : BitVec 5) (d : Display) : Display :=
  { d with
    x := (if d.dir = 2 then d.x - 1 else if d.dir = 3 then d.x + 1 else d.x) &&& xMask
    y := (if d.dir = 0 then d.y - 1 else if d.dir = 1 then d.y + 1 else d.y) &&& yMask }

/-- `auto_move()` on the state. -/
def State.moveCursor (s : State) : State := s.withDisp (s.disp.autoMove s.cfg.xMask)

end Sys2Proof.Machine
end

