-- ==== Sys2Proof/Machine/Display.lean ====
section
/-! DEFINITION. The Display Controller (43_display.md): the display commands, and the data port's read and write in both
modes. -/

namespace Sys2Proof.Machine

/-- `DISP_MODE m` (R191). -/
def execDispMode (m : BitVec 1) (s : State) : Result := .next (s.withDisp { s.disp with mode := m })

/-- `DISP_NOP23` (R196): an accepted no-op. -/
def execDispNop23 (_n : BitVec 1) (s : State) : Result := .next s

/-- `DISP_DIR d` (R192). -/
def execDispDir (d : BitVec 2) (s : State) : Result := .next (s.withDisp { s.disp with dir := d })

/-- `DISP_SCROLL` (R197), 0x08 to 0x0F: an accepted no-op. -/
def execDispScroll8 (_p : BitVec 3) (s : State) : Result := .next s

/-- `DISP_SCROLL` (R197), 0x10 to 0x1F: an accepted no-op. -/
def execDispScroll16 (_p : BitVec 4) (s : State) : Result := .next s

/-- `DISP_SCROLL` (R197), 0x20 to 0x3F: an accepted no-op. -/
def execDispScroll32 (_p : BitVec 5) (s : State) : Result := .next s

/-- `DISP_SETX x` (R193): the column unmasked, and `cursor_moved`. -/
def execDispSetx (_u : BitVec 1) (x : BitVec 5) (s : State) : Result :=
  .next (s.withDisp { s.disp with x := x, moved := true })

/-- `DISP_SETY r` (R194). -/
def execDispSety (r : BitVec 6) (s : State) : Result := .next (s.withDisp { s.disp with y := r, moved := true })

/-- `DISP_CONTRAST k` (R195): consumed, no state change. -/
def execDispContrast (_k : BitVec 6) (s : State) : Result := .next s

/-- `disp_command(c)` (R190), in the source's precedence order. -/
def dispCommand (c : Byte) (s : State) : Result :=
  if c.toNat ≤ 1 then execDispMode (c.extractLsb' 0 1) s
  else if 4 ≤ c.toNat ∧ c.toNat ≤ 7 then execDispDir (c.extractLsb' 0 2) s
  else if c.extractLsb' 6 2 = 0b01#2 then execDispSetx (c.extractLsb' 5 1) (c.extractLsb' 0 5) s
  else if c.extractLsb' 6 2 = 0b10#2 then execDispSety (c.extractLsb' 0 6) s
  else if c.extractLsb' 6 2 = 0b11#2 then execDispContrast (c.extractLsb' 0 6) s
  else if c.toNat = 2 ∨ c.toNat = 3 then execDispNop23 (c.extractLsb' 0 1) s
  else if c.toNat < 16 then execDispScroll8 (c.extractLsb' 0 3) s
  else if c.toNat < 32 then execDispScroll16 (c.extractLsb' 0 4) s
  else execDispScroll32 (c.extractLsb' 0 5) s

/-- A data read at an offset beyond VRAM, by `VRAM_OOB` (R204); `v` is the sentinel as the mode returns it. -/
def vramOobRead (v : Byte) (s : State) : Result :=
  match s.cfg.vramOob with
  | .stop => .fault .vramRange
  | .sentinel => .next (s.moveCursor.deliver v)

/-- A mode-1 data write at an offset beyond VRAM (R204). -/
def vramOobWrite (s : State) : Result :=
  match s.cfg.vramOob with
  | .stop => .fault .vramRange
  | .sentinel => .next s.moveCursor

/-- `read_mode1()` (R200). -/
def readMode1 (s : State) : Result :=
  if vramSize ≤ s.disp.offset1 then vramOobRead 0xFF s
  else .next (s.moveCursor.deliver (s.vramByte s.disp.offset1))

/-- The byte after the first of a mode-0 cell; past the end it reads 0x00 (R201). -/
def State.secondByte (s : State) : Byte :=
  if s.disp.offset0 + 1 < vramSize then s.vramByte (s.disp.offset0 + 1) else 0x00

/-- `read_mode0()` (R201). -/
def readMode0 (s : State) : Result :=
  if vramSize ≤ s.disp.offset0 then vramOobRead 0x3F s
  else .next (s.moveCursor.deliver (extract6 (s.vramByte s.disp.offset0) s.secondByte s.disp.shift0))

/-- The one-shot stale read (R199): the flag is consumed, 0x00 is returned, and the cursor moves if
`STALE_READ_ADVANCES`. -/
def staleRead (s : State) : State :=
  let s' := s.withDisp { s.disp with moved := false }
  (if s.cfg.staleReadAdvances then s'.moveCursor else s').deliver 0x00

/-- `disp_data_read()` (R199). -/
def dispDataRead (s : State) : Result :=
  if s.disp.moved then .next (staleRead s)
  else if s.disp.mode = 1 then readMode1 s
  else readMode0 s

/-- `disp_data_write(v)` with `disp_mode` = 1 (R202). -/
def writeMode1 (v : Byte) (s : State) : Result :=
  if vramSize ≤ s.disp.offset1 then vramOobWrite s
  else .next (s.setVramByte s.disp.offset1 v).moveCursor

/-- The mode-0 write into VRAM, with both guards (R203). -/
def State.putCell0 (s : State) (v : Byte) : State :=
  let off := s.disp.offset0
  let sh := s.disp.shift0
  if off < vramSize then
    let s1 := s.setVramByte off (mergeFirst (s.vramByte off) v sh)
    if 2 < sh ∧ off + 1 < vramSize then s1.setVramByte (off + 1) (mergeSpill (s1.vramByte (off + 1)) v sh)
    else s1
  else s

/-- `disp_data_write(v)` with `disp_mode` = 0 (R203). -/
def writeMode0 (v : Byte) (s : State) : Result := .next (s.putCell0 v).moveCursor

/-- `disp_data_write(v)` (R202, R203). -/
def dispDataWrite (v : Byte) (s : State) : Result :=
  if s.disp.mode = 1 then writeMode1 v s else writeMode0 v s

end Sys2Proof.Machine
end

