-- ==== Sys2Proof/Machine/Input.lean ====
section
/-! DEFINITION. The Input Multiplexer (44_input_mux.md) and the controller (48_host_interface.md R313). -/

namespace Sys2Proof.Machine

/-- Every pressed button of a group toggles its bit (R221: "XOR semantics"). -/
def muxGroup (s : State) (group : List (Line × Nat)) (acc : Byte) : Byte :=
  match group with
  | [] => acc
  | e :: rest => muxGroup s rest (if s.btn e.1 then acc ^^^ (1#8 <<< e.2) else acc)

/-- The groups from number `g` on, those whose select bit is clear in `mask` (R221, R222). -/
def muxFrom (s : State) (mask : Byte) (g : Nat) (groups : List (List (Line × Nat))) (acc : Byte) : Byte :=
  match groups with
  | [] => acc
  | group :: rest => muxFrom s mask (g + 1) rest (if mask.getLsbD g then acc else muxGroup s group acc)

/-- `mux(mask)` (R221): from all-ones, row groups 0 to 6. -/
def mux (s : State) (mask : Byte) : Byte := muxFrom s mask 0 (s.cfg.keymap.take 7) 0xFF

/-- The controller's names: those of `KEYMAP` and ON (R313). -/
def buttonTable (p : Params) : List Line := p.keymap.flatten.map (·.1) ++ [onName]

/-- Make `btn` true exactly for the names given; a name not in the table stays false (R313). The list is kept in the
table's order, so that equal sets are equal lists (entry 14). -/
def State.holdButtons (s : State) (names : List Line) : State :=
  s.withButtons ((buttonTable s.cfg).filter fun n => names.contains n)

/-- `hook_poll()` (48_host_interface.md R314). A host may change the buttons inside the hook, and the change "is seen at
once" (42_port_dispatch.md R163): what it does at each call stands in `pollFeed` (entry 13). -/
def State.pollHook (s : State) : State :=
  if s.hooks.poll then
    let s' := s.withHookLog (s.hookLog ++ [.poll])
    match s.pollFeed with
    | [] => s'
    | names :: rest => (s'.withPollFeed rest).holdButtons names
  else s

end Sys2Proof.Machine
end

