-- ==== Sys2Proof/Machine/Protocol.lean ====
section
/-! DEFINITION. The byte-level file-transfer driver (46_link_protocol.md): the entry primitives of 45_link_fsm.md R231,
the container's validation, and the stages. A stage works on the link group of State alone. -/

namespace Sys2Proof.Machine

/-- Byte `i`. (The 0 where there is none is never used: a field of the container is read only if the file holds it, and a header
has its 13 bytes.) -/
def byteAt (bs : List Byte) (i : Nat) : Byte := bs.getD i 0

/-- The two bytes at `i`, little-endian (20_memory.md R77). -/
def le16At (bs : List Byte) (i : Nat) : Nat := (byteAt bs i).toNat + 256 * (byteAt bs (i + 1)).toNat

/-- The sum of the bytes, mod 65536. -/
def sum16 (bs : List Byte) : Nat := (bs.map BitVec.toNat).sum % 65536

/-- A 16-bit number as two bytes, low byte first. -/
def le16 (n : Nat) : List Byte := [BitVec.ofNat 8 n, BitVec.ofNat 8 (n / 256)]

/-- `start_receive(bytes, cont)` (45_link_fsm.md R231). -/
def Link.startReceive (l : Link) (bytes : List Byte) (c : Continuation) : Link :=
  { l with queue := bytes, phase := .prepareReceive, cont := c }

/-- `start_send(n, cont)` (45_link_fsm.md R231). -/
def Link.startSend (l : Link) (n : BitVec 16) (c : Continuation) : Link :=
  { l with queue := [], toSend := n, phase := .prepareSend, cont := c }

/-- The file holds the two-byte field at `off`. -/
def holdsField (bytes : List Byte) (off : Nat) : Bool := decide (off + 2 ≤ bytes.length)

/-- `validate_container(bytes)` (R264): the kind of the first check that fails, if one fails. "Files too short to hold a field
fail with the kind of that field" (92_eei_decisions.md D29): the size field's kind is BadLength, the checksum's BadChecksum
(DEDUCED for offsets other than the defaults, entry 35). -/
def validateContainer (p : Params) (bytes : List Byte) : Option FormatKind :=
  if bytes.take p.linkMagic.toList.length ≠ p.linkMagic.toList then some .badSignature
  else if bytes.length < p.linkDataStart then some .badLength
  else if !holdsField bytes p.linkSizeOffset then some .badLength
  else
    let size := le16At bytes p.linkSizeOffset
    if bytes.length ≠ size + p.linkOverhead then some .badLength
    else if !holdsField bytes (p.linkDataStart + size) then some .badChecksum
    else if sum16 ((bytes.drop p.linkDataStart).take size) ≠ le16At bytes (p.linkDataStart + size) then
      some .badChecksum
    else none

/-- The bytes left from the position on (R274: counted to the end of the file). -/
def OpenFile.remaining (f : OpenFile) : Nat := f.bytes.length - f.pos

/-- The next `n` bytes. -/
def OpenFile.next (f : OpenFile) (n : Nat) : List Byte := (f.bytes.drop f.pos).take n

/-- The next `n` bytes, with zero bytes for those that are missing (R266, U9). -/
def OpenFile.nextPadded (f : OpenFile) (n : Nat) : List Byte :=
  f.next n ++ List.replicate (n - (f.next n).length) 0x00

/-- The file after reading `n` bytes: the position stays at the end on a short read (R266). -/
def OpenFile.skip (f : OpenFile) (n : Nat) : OpenFile := { f with pos := f.pos + (f.next n).length }

/-- The request command for a header (30_encoding.md R117). -/
def requestPacket (p : Params) (hdr : List Byte) : List Byte :=
  p.linkReq.toList ++ hdr ++ le16 (sum16 (hdr.drop p.linkReqCkStart))

/-- The data command for a variable block (30_encoding.md R119). -/
def dataPacket (p : Params) (var : List Byte) : List Byte :=
  p.linkData.toList ++ var ++ le16 (sum16 (var.drop p.linkDataCkStart))

/-- `send_next_file()` (R266), and the end of the container (R274). -/
def Link.sendNextFile (p : Params) (l : Link) : Link :=
  match l.file with
  | none => l
  | some f =>
    if f.remaining < 13 then { l with file := none }
    else
      let hdr := f.next 13
      let f1 := f.skip 13
      let n := le16At hdr p.linkLenOffset.val + 2
      let l1 := { l with file := some (f1.skip n), hdr := hdr, var := f1.nextPadded n, active := true }
      l1.startReceive (requestPacket p hdr) .receiveReqAck

/-- Stage ReceiveReqAck (R267). -/
def Link.receiveReqAck (l : Link) : Link := { l with active := false }.startSend 8 .sendVariableData

/-- `out_of_memory()` (R271). -/
def Link.outOfMemory (l : Link) : Link := { l with file := none, active := false }.startSend 3 .endOutOfMemory

/-- Stage SendVariableData (R268): five bytes are popped, and the sixth decides. -/
def Link.sendVariableData (p : Params) (l : Link) : Except Fault Link :=
  match l.queue.drop 5 with
  | [] => .error .linkQueueEmpty
  | b :: rest =>
    if b = p.linkOomSentinel then .ok ({ l with queue := rest }).outOfMemory
    else .ok ({ l with active := true }.startReceive (dataPacket p l.var) .receiveDataAck)

/-- Stage ReceiveDataAck (R269). -/
def Link.receiveDataAck (l : Link) : Link := { l with active := false }.startSend 4 .endTransmission

/-- Stage EndTransmission (R270). -/
def Link.endTransmission (p : Params) (l : Link) : Link := { l with active := true }.startReceive p.linkEot.toList .finalize

/-- Stage EndOutOfMemory (R272). -/
def Link.endOutOfMemory (p : Params) (l : Link) : Link := { l with active := true }.startReceive p.linkOomAck.toList .finalize

/-- Finalize (R273). -/
def Link.finalize (p : Params) (l : Link) : Link :=
  { l with queue := [], active := false, cont := .none }.sendNextFile p

/-- `run_continuation()` (45_link_fsm.md R247). -/
def Link.runContinuation (p : Params) (l : Link) : Except Fault Link :=
  match l.cont with
  | .none => .ok l
  | .receiveReqAck => .ok l.receiveReqAck
  | .sendVariableData => l.sendVariableData p
  | .receiveDataAck => .ok l.receiveDataAck
  | .endTransmission => .ok (l.endTransmission p)
  | .endOutOfMemory => .ok (l.endOutOfMemory p)
  | .finalize => .ok (l.finalize p)
  | .test => .ok { l with testCount := l.testCount + 1 }

end Sys2Proof.Machine
end

