-- ==== Sys2Proof/Machine/LinkFsm.lean ====
section
/-! DEFINITION. The bit-level handshake FSM (45_link_fsm.md): `tick()` and its twelve arms, on the link group of State. -/

namespace Sys2Proof.Machine

/-- `PrepareReceive` for the popped byte `b`, the queue then being `rest` (R234). -/
def Link.prepareReceive (l : Link) (b : Byte) (rest : List Byte) : Link :=
  { l with cur := b, queue := rest, phase := .receive, bits := 8, bitStep := 5 }

/-- `PrepareSend` once a line is pulled (R235). -/
def Link.prepareSend (l : Link) : Link := { l with phase := .send, bits := 8, bitStep := 5, cur := 0 }

/-- `Receive` step 5 (R236): drive the next bit, least significant first. -/
def Link.receiveDrive (l : Link) : Link :=
  { l with lineIn := if l.cur.getLsbD 0 then 2 else 1, cur := l.cur >>> 1, bitStep := 4 }

/-- `Receive` step 4 (R237). -/
def Link.receiveAwaitAck (l : Link) : Link := if l.combined = 0 then { l with bitStep := 3 } else l

/-- `Receive` step 3 (R238). -/
def Link.receiveRelease (l : Link) : Link := { l with lineIn := 0, bitStep := 2 }

/-- `Receive` step 2 (R239). -/
def Link.receiveAwaitIdle (l : Link) : Link := if l.combined = 3 then { l with bitStep := 1 } else l

/-- `Receive` step 1 (R240). -/
def Link.receiveCount (p : Params) (l : Link) : Except Fault Link :=
  let l1 := { l with bits := l.bits - 1 }
  if l1.bits = 0 then
    if l1.queue ≠ [] then .ok { l1 with phase := .prepareReceive }
    else { l1 with phase := .inactive }.runContinuation p
  else .ok { l1 with bitStep := 5 }

/-- `Send` step 5 (R241): capture `combined() & 1` at position `8 - lk_bits`. DESIGN CHOICE (entry 40): with `lk_bits` = 0, which
no rule but a `LOAD_TEXT` makes, position 8 lies outside `lk_cur` and the bit is dropped. -/
def Link.sendCapture (l : Link) : Link :=
  if l.combined ≠ 3 then
    { l with cur := l.cur ||| ((l.combined &&& 1).setWidth 8 <<< (8 - l.bits)), bitStep := 4 }
  else l

/-- `Send` step 4 (R242). -/
def Link.sendAck (l : Link) : Link := { l with lineIn := l.lineOut ^^^ 3, bitStep := 3 }

/-- `Send` step 3 (R243). -/
def Link.sendAwaitRelease (l : Link) : Link := if l.lineOut &&& 3 = 0 then { l with bitStep := 2 } else l

/-- `Send` step 2 (R244). -/
def Link.sendRelease (l : Link) : Link := { l with lineIn := 0, bitStep := 1 }

/-- `Send` step 1 (R245). -/
def Link.sendCount (p : Params) (l : Link) : Except Fault Link :=
  let l1 := { l with bits := l.bits - 1 }
  if l1.bits = 0 then
    let l2 := { l1 with queue := l1.queue ++ [l1.cur], toSend := l1.toSend - 1 }
    if 0 < l2.toSend then .ok { l2 with phase := .prepareSend }
    else { l2 with phase := .inactive }.runContinuation p
  else .ok { l1 with bitStep := 5 }

/-- The arm of `Receive` for the current step; a step outside 1 to 5 has none (entry 25). -/
def Link.receiveStep (p : Params) (l : Link) : Except Fault Link :=
  if l.bitStep = 5 then .ok l.receiveDrive
  else if l.bitStep = 4 then .ok l.receiveAwaitAck
  else if l.bitStep = 3 then .ok l.receiveRelease
  else if l.bitStep = 2 then .ok l.receiveAwaitIdle
  else if l.bitStep = 1 then l.receiveCount p
  else .ok l

/-- The arm of `Send` for the current step. -/
def Link.sendStep (p : Params) (l : Link) : Except Fault Link :=
  if l.bitStep = 5 then .ok l.sendCapture
  else if l.bitStep = 4 then .ok l.sendAck
  else if l.bitStep = 3 then .ok l.sendAwaitRelease
  else if l.bitStep = 2 then .ok l.sendRelease
  else if l.bitStep = 1 then l.sendCount p
  else .ok l

/-- `tick()` (R233): at most one Prepare transition and at most one step. -/
def Link.tick (p : Params) (l : Link) : Except Fault Link :=
  match l.phase with
  | .inactive => .ok l
  | .prepareReceive =>
    match l.queue with
    | [] => .error .linkQueueEmpty
    | b :: rest =>
      if p.prepareFallthrough then (l.prepareReceive b rest).receiveStep p else .ok (l.prepareReceive b rest)
  | .prepareSend =>
    if l.combined ≠ 3 then
      if p.prepareFallthrough then l.prepareSend.sendStep p else .ok l.prepareSend
    else .ok l
  | .receive => l.receiveStep p
  | .send => l.sendStep p

/-- `tick()` on the state: a port-0 access advances the link and nothing else. -/
def tick (s : State) : Result :=
  match s.link.tick s.cfg with
  | .ok l => .next (s.withLink l)
  | .error e => .fault e

/-- The harness's direct entry `start_receive(bytes, Test)` (46_link_protocol.md R261). -/
def harnessReceive (bytes : List Byte) (s : State) : Result := .next (s.withLink (s.link.startReceive bytes .test))

/-- The harness's direct entry `start_send(n, Test)`, with its precondition (R231, U3). -/
def harnessSend (n : BitVec 16) (s : State) : Result :=
  if n = 0 then .refused .sendCountZero else .next (s.withLink (s.link.startSend n .test))

end Sys2Proof.Machine
end

