-- ==== Sys2Proof/Machine/MemoryTxn.lean ====
section
/-! DEFINITION. The memory transactions (41_memory_dispatch.md R151, R152), row by row of the table. The three rows of a
kind differ in the address the row's bits give; the region is decided by the parameters, as the rule says. -/

namespace Sys2Proof.Machine

/-- `MEMRD`, row "low ROM, bank 0". -/
def execMemrdLow (a : BitVec 14) (s : State) : Result := readMemory (lowAddr a) s

/-- `MEMRD`, row "bank window". -/
def execMemrdWindow (a : BitVec 14) (s : State) : Result := readMemory (windowAddr a) s

/-- `MEMRD`, row "RAM". -/
def execMemrdRam (a : BitVec 15) (s : State) : Result := readMemory (ramAddr a) s

/-- `MEMWR`, row "low ROM: write ignored, hook still called". -/
def execMemwrLow (a : BitVec 14) (v : Byte) (s : State) : Result := writeMemory (lowAddr a) v s

/-- `MEMWR`, row "bank window: write ignored, hook still called". -/
def execMemwrWindow (a : BitVec 14) (v : Byte) (s : State) : Result := writeMemory (windowAddr a) v s

/-- `MEMWR`, row "RAM". -/
def execMemwrRam (a : BitVec 15) (v : Byte) (s : State) : Result := writeMemory (ramAddr a) v s

end Sys2Proof.Machine
end

