-- ==== Sys2Proof/Machine/Ports.lean ====
section
/-! DEFINITION. The port transactions (42_port_dispatch.md). No port transaction notifies `hook_read` or `hook_write`. -/

namespace Sys2Proof.Machine

/-- The registers an `IOWR 0` loads (R161, 30_encoding.md R103). -/
def State.loadPort0 (s : State) (v : Byte) : State :=
  (s.withMap { s.map with bankHigh := port0BankHigh s.cfg v }).withLink { s.link with lineOut := port0LineOut v }

/-- `IORD 0` (R162): a tick, then the value, composed after it. -/
def execIord0 (s : State) : Result := andThen (tick s) fun t => .next (t.deliver t.port0Value)

/-- `IOWR 0, v` (R161). -/
def execIowr0 (v : Byte) (s : State) : Result :=
  if s.lowBankFiltered ∧ s.cfg.filterScope = .wholeWrite then .next s
  else if s.link.active ∧ ¬ s.lowBankFiltered then tick (s.loadPort0 v)
  else .next (s.loadPort0 v)

/-- `IORD 1` (R163): the lag flag, then the hook, then the matrix. -/
def execIord1 (s : State) : Result :=
  let t := s.clearLagFlag.pollHook
  .next (t.deliver (mux t t.kbd.keyMask))

/-- `IOWR 1, v` (R164). All eight bits are stored, bit 7 among them (10_state.md R34, 30_encoding.md R105, R111); U13 of
93_implementation_defined.md says "not stored" of bit 7. DESIGN CHOICE (entry 45): the rules are followed. -/
def execIowr1 (v : Byte) (s : State) : Result := .next (s.withKbd { s.kbd with keyMask := v }).clearLagFlag

/-- `IORD 2` (R165). -/
def execIord2 (s : State) : Result := readSentinel s

/-- `IOWR 2, v` (R166). -/
def execIowr2 (v : Byte) (s : State) : Result := .next (s.withMap { s.map with bankLow := port2BankLow s.cfg v })

/-- `IORD 3` (R168). -/
def execIord3 (s : State) : Result := .next (s.deliver s.port3Value)

/-- `IOWR 3, v` (R167). -/
def execIowr3 (v : Byte) (s : State) : Result := .next (s.withKbd { s.kbd with maskOn := port3MaskOn v })

/-- `IORD 4` (R169). -/
def execIord4 (s : State) : Result := .next (s.deliver s.cfg.port4Const)

/-- `IOWR 4, v` (R170). -/
def execIowr4 (_v : Byte) (s : State) : Result := dropWrite s

/-- `IORD 16` (R172). -/
def execIord16 (s : State) : Result := readSentinel s

/-- `IOWR 16, v` (R171). -/
def execIowr16 (v : Byte) (s : State) : Result := dispCommand v s

/-- `IORD 17` (R173). -/
def execIord17 (s : State) : Result := dispDataRead s

/-- `IOWR 17, v` (R174). -/
def execIowr17 (v : Byte) (s : State) : Result := dispDataWrite v s

/-- `IORD p`, any other port (R175). -/
def execIordOther (_p : Word) (s : State) : Result := readSentinel s

/-- `IOWR p, v`, any other port (R176). -/
def execIowrOther (_p : Word) (_v : Byte) (s : State) : Result := dropWrite s

/-- `PortRead(p)` (R160): the whole port number selects the handler. -/
def portRead (p : Nat) (s : State) : Result :=
  if p = 0 then execIord0 s
  else if p = 1 then execIord1 s
  else if p = 2 then execIord2 s
  else if p = 3 then execIord3 s
  else if p = 4 then execIord4 s
  else if p = 16 then execIord16 s
  else if p = 17 then execIord17 s
  else readSentinel s

/-- `PortWrite(p, v)` (R160). -/
def portWrite (p : Nat) (v : Byte) (s : State) : Result :=
  if p = 0 then execIowr0 v s
  else if p = 1 then execIowr1 v s
  else if p = 2 then execIowr2 v s
  else if p = 3 then execIowr3 v s
  else if p = 4 then execIowr4 v s
  else if p = 16 then execIowr16 v s
  else if p = 17 then execIowr17 v s
  else dropWrite s

/-- What the Dispatcher does with a transaction (41_memory_dispatch.md R150, R160). -/
def dispatch (t : Transaction) (s : State) : Result :=
  match t with
  | .memrd a => readMemory a s
  | .memwr a v => writeMemory a v s
  | .iord p => portRead p s
  | .iowr p v => portWrite p v s

/-- A bus transaction as the Dispatcher serves it. The machine has no address of 2^`ADDR_BITS` or more and no port number of
2^`PORT_BITS` or more (20_memory.md R70, entry 27). -/
def serve (t : Transaction) (s : State) : Result :=
  if t.fits s.cfg then dispatch t s else .fault .noSuchAddress

end Sys2Proof.Machine
end

