-- ==== Sys2Proof/Machine/Frame.lean ====
section
/-! DEFINITION. The burst sequencer (40_cpu_sequencer.md R132, R134, R135), the Frame Scheduler and the counters
(47_frame_scheduler.md R291, R295). -/

namespace Sys2Proof.Machine

/-- `IRQ_ACK` (40_cpu_sequencer.md R134). -/
def execIrqAck (s : State) : Result := .next s.acknowledgeIrq

/-- The byte the engine was last given in this run, once `t` has led to `s`: a read's byte is "delivered to the engine before
it chooses its next transaction" (R132). -/
def lastByte (t : Transaction) (s : State) (last : Option Byte) : Option Byte :=
  match t with
  | .memrd _ => s.delivered.getLast?
  | .memwr _ _ => last
  | .iord _ => s.delivered.getLast?
  | .iowr _ _ => last

/-- One run of the engine (R132): its choices in order, each transaction served by the Dispatcher before the next choice;
`last` is the byte it was last given in this run. -/
def runEngine (r : EngineRun) (last : Option Byte) (s : State) : Result :=
  match r with
  | .done => .next s
  | .compute c rest => runEngine rest last (s.withCpu c)
  | .bus t rest => andThen (serve t s) fun u => runEngine rest (lastByte t u last) u
  | .irqAck rest => andThen (execIrqAck s) (runEngine rest last)
  | .onByte v yes no => if last = some v then runEngine yes last s else runEngine no last s
  | .onIrq yes no => if s.irqLine then runEngine yes last s else runEngine no last s

/-- The run that is written out for `cpu` and the budget `n`: the first case for them, or, with none, no transaction at all. -/
def listedRun (cases : List EngineCase) (cpu : Cpu) (n : Nat) : EngineRun :=
  match cases with
  | [] => .done
  | c :: rest => if c.cpu = cpu ∧ c.budget = n then c.run else listedRun rest cpu n

/-- The run an engine makes from `cpu` with the budget `n` (R130, R133): its run function, whatever it is. -/
def engineRun (e : Engine) (cpu : Cpu) (n : Nat) : EngineRun :=
  match e.kind with
  | .table t => listedRun t.cases cpu n
  | .own id => Config.ownRun id cpu n

/-- `ExecuteCycles(N)` (R130, R132): a function of the engine, `cpu`, `N`, `irq_line` and the bytes returned (R133). -/
def executeCycles (n : Nat) (s : State) : Result := runEngine (engineRun s.engine s.cpu n) none s

/-- `BURST` (R135): sample ON, run, assert. -/
def burst (s : State) : Result :=
  andThen (executeCycles s.cfg.cyclesPerBurst s.sampleOn) fun t => .next t.assertIrq

/-- `n` bursts. -/
def bursts (n : Nat) (s : State) : Result :=
  match n with
  | 0 => .next s
  | n' + 1 => andThen (burst s) (bursts n')

/-- The start of a frame: the lag flag (47_frame_scheduler.md R291), and from here on the engine may act (00_scope.md R7). -/
def State.openFrame (s : State) : State := s.setLagFlag.withInFrame true

/-- The end of a frame: the counters (47_frame_scheduler.md R291). -/
def State.closeFrame (s : State) : State :=
  (s.withCtr
    { s.ctr with
      frame := s.ctr.frame + 1
      lag := if s.ctr.lagFlag then s.ctr.lag + 1 else s.ctr.lag
      isLag := s.ctr.lagFlag }).withInFrame false

/-- `FRAME_ADVANCE` (R291). -/
def execFrameAdvance (s : State) : Result :=
  andThen (bursts s.cfg.burstsPerFrame s.openFrame) fun t => .next t.closeFrame

/-- `GET_COUNTER(which)` (R295). -/
def execGetCounter (which : Counter) (s : State) : Result :=
  match which with
  | .frame => .next (s.withReply (.count s.ctr.frame))
  | .lag => .next (s.withReply (.count s.ctr.lag))

/-- `SET_COUNTER(which, n)` (R295). -/
def execSetCounter (which : Counter) (n : Nat) (s : State) : Result :=
  match which with
  | .frame => .next (s.withCtr { s.ctr with frame := n })
  | .lag => .next (s.withCtr { s.ctr with lag := n })

end Sys2Proof.Machine
end

