-- ==== Sys2Proof/Machine/HostOps.lean ====
section
/-! DEFINITION. The other host operations: construction, reset and disposal (70_reset_and_hazards.md R350, R351,
48_host_interface.md R311), `SEND_FILE` (46_link_protocol.md R263), the Memory Domain Exporter (48_host_interface.md R307
to R309), the frame buffer (R312) and the controller (R313). -/

namespace Sys2Proof.Machine

/-- `HARD_RESET` (70_reset_and_hazards.md R350). -/
def execHardReset (s : State) : Result := .next s.hardReset

/-- The image as ROM holds it. -/
def imageMemory (r : RomImage) : Memory := Memory.ofCells romFill r.size r.cells

/-- A new instance from the construction inputs (R351), the parameters among them; it ends with a hard reset, and no frame of
it is in progress. `START_PC` is `ADDR_BITS` wide (10_state.md R22, entry 27); the new engine's reset starts from a state that
holds nothing of the old one's (entry 28). -/
def State.constructed (s : State) (args : ConstructArgs) : State :=
  State.hardReset
    { s with
      cfg := args.params
      rom := imageMemory args.rom
      startPc := args.startPc % 2 ^ args.params.addrBits
      hooks := args.hooks
      engine := args.engine
      cpu := { pc := 0, block := [] }
      vram := []
      ctr := Counters.reset
      inFrame := false
      disposed := false }

/-- `CONSTRUCT(ROM, START_PC, hooks, engine)` (R351). -/
def execConstruct (args : ConstructArgs) (s : State) : Result :=
  if paramsOk args.params ∧ args.rom.size = args.params.romSize then .next (s.constructed args) else .refused .badConstruction

/-- `DISPOSE` (48_host_interface.md R311). -/
def execDispose (s : State) : Result := .next (s.withDisposed true)

/-- `SEND_FILE(bytes)` (46_link_protocol.md R263), with its precondition (U7). -/
def execSendFile (bytes : List Byte) (s : State) : Result :=
  if s.link.phase ≠ .inactive ∨ s.link.file ≠ none then .refused .sessionOpen
  else
    match validateContainer s.cfg bytes with
    | some k => raiseFormatError k s
    | none =>
      .next ((s.withLink (({ s.link with file := some { bytes := bytes, pos := s.cfg.linkDataStart } }).sendNextFile
        s.cfg)).withReply .accepted)

/-- A memory domain as the host sees it (48_host_interface.md R307). -/
structure Domain where
  name : Line
  size : Nat
  endian : Endian
deriving DecidableEq, Repr

/-- The list of domains: "Main RAM" alone (R307, R310). -/
def domains (p : Params) : List Domain := [{ name := asc "Main RAM", size := p.ramSize, endian := p.domainEndian }]

/-- The RAM offset of a domain address: "the mask before indexing" (R308). -/
def domainOffset (p : Params) (a : Nat) : Nat := a &&& (p.ramSize - 1)

/-- `DOMAIN_READ(a)` (R308). -/
def execDomainRead (a : Nat) (s : State) : Result :=
  .next (s.withReply (.byte (s.ramByte (domainOffset s.cfg a))))

/-- `DOMAIN_WRITE(a, v)` (R309). -/
def execDomainWrite (a : Nat) (v : Byte) (s : State) : Result := .next (s.setRamByte (domainOffset s.cfg a) v)

/-- The pixel at a row and a column (R312). -/
def State.pixel (s : State) (row col : Nat) : Pixel :=
  if (s.vramByte (row * rowStride + col / 8)).getLsbD (7 - col % 8) then s.cfg.fbOn else s.cfg.fbOff

/-- `GET_FRAMEBUFFER` (R312): row-major. -/
def State.framebuffer (s : State) : List Pixel :=
  (List.range (fbWidth * fbHeight)).map fun i => s.pixel (i / fbWidth) (i % fbWidth)

def execGetFramebuffer (s : State) : Result := .next (s.withReply (.pixels s.framebuffer))

/-- `SET_BUTTONS(set)` (R313). -/
def execSetButtons (names : List Line) (s : State) : Result := .next (s.holdButtons names)

end Sys2Proof.Machine
end

