-- ==== Sys2Proof/Machine/Snapshot.lean ====
section
/-! DEFINITION. The State Serializer (48_host_interface.md R301 to R306): the content of a snapshot, the syntax of its
lines, `SAVE_TEXT` and `LOAD_TEXT`. The field order, the types of the one-bit numbers, the markers and the plain form of a
CPU block are the model's (entry 21). -/

namespace Sys2Proof.Machine

/-! The syntax of a value (R302: "integer, unsigned, boolean, hex-buffer"). -/

/-- The value of a field. -/
inductive SnapVal where
  | num (n : Nat)
  | flag (b : Bool)
  | buf (bs : List Byte)
deriving DecidableEq, Repr

/-- The type of a field, with what fits it (R304: "exactly restore"; U12; entry 20). -/
inductive SnapType where
  | num
  | below (bound : Nat)   -- a number below the bound
  | flag
  | zeroFlag              -- a flag that is 0 always (60_exceptions.md R335: `nmi_line`)
  | buf
  | bufOf (len : Nat)     -- a buffer of exactly this length
deriving DecidableEq, Repr

/-- The value is one of the type. -/
def SnapVal.fits (t : SnapType) (v : SnapVal) : Bool :=
  match t, v with
  | .num, .num _ => true
  | .below b, .num n => decide (n < b)
  | .flag, .flag _ => true
  | .zeroFlag, .flag b => !b
  | .buf, .buf _ => true
  | .bufOf len, .buf bs => decide (bs.length = len)
  | _, _ => false

/-- The character of a decimal digit. -/
def decDigit (d : Nat) : Byte := BitVec.ofNat 8 (48 + d)

/-- The decimal digits of `n`, most significant first, before `acc`; `fuel` bounds their number. -/
def decDigits (fuel n : Nat) (acc : Line) : Line :=
  match fuel with
  | 0 => acc
  | fuel' + 1 => if n < 10 then decDigit n :: acc else decDigits fuel' (n / 10) (decDigit (n % 10) :: acc)

/-- `n` in decimal. -/
def printDec (n : Nat) : Line := decDigits (n + 1) n []

/-- Read decimal digits after the number `acc`. -/
def parseDecFrom (acc : Nat) (l : Line) : Option Nat :=
  match l with
  | [] => some acc
  | c :: rest => if 48 ≤ c.toNat ∧ c.toNat ≤ 57 then parseDecFrom (10 * acc + (c.toNat - 48)) rest else none

/-- A decimal number: at least one digit and nothing else. DESIGN CHOICE (entry 47): leading zeros are accepted, which `SAVE_TEXT`
does not write (R302). -/
def parseDec (l : Line) : Option Nat := if l = [] then none else parseDecFrom 0 l

/-- The character of an uppercase hexadecimal digit. -/
def hexDigit (d : Nat) : Byte := if d < 10 then BitVec.ofNat 8 (48 + d) else BitVec.ofNat 8 (55 + d)

/-- The value of an uppercase hexadecimal digit. -/
def hexValue (c : Byte) : Option Nat :=
  if 48 ≤ c.toNat ∧ c.toNat ≤ 57 then some (c.toNat - 48)
  else if 65 ≤ c.toNat ∧ c.toNat ≤ 70 then some (c.toNat - 55)
  else none

/-- Two digits a byte, first byte first, no separators. -/
def printHex (bs : List Byte) : Line :=
  match bs with
  | [] => []
  | b :: rest => hexDigit (b.toNat / 16) :: hexDigit (b.toNat % 16) :: printHex rest

/-- Pairs of uppercase digits and nothing else. DESIGN CHOICE (entry 47): lowercase digits do not parse. -/
def parseHex (l : Line) : Option (List Byte) :=
  match l with
  | [] => some []
  | [_] => none
  | a :: b :: rest =>
    match hexValue a, hexValue b, parseHex rest with
    | some x, some y, some bs => some (BitVec.ofNat 8 (16 * x + y) :: bs)
    | _, _, _ => none

def trueLine : Line := asc "True"

def falseLine : Line := asc "False"

def printVal (v : SnapVal) : Line :=
  match v with
  | .num n => printDec n
  | .flag b => if b then trueLine else falseLine
  | .buf bs => printHex bs

/-- The two words `SAVE_TEXT` writes and no other spelling. DESIGN CHOICE (entry 47). -/
def parseFlag (l : Line) : Option Bool :=
  if l = trueLine then some true else if l = falseLine then some false else none

/-- The value a line gives, before it is held against its type. -/
def parseRaw (t : SnapType) (l : Line) : Option SnapVal :=
  match t with
  | .num => (parseDec l).map .num
  | .below _ => (parseDec l).map .num
  | .flag => (parseFlag l).map .flag
  | .zeroFlag => (parseFlag l).map .flag
  | .buf => (parseHex l).map .buf
  | .bufOf _ => (parseHex l).map .buf

/-- `parse(type, value)` (R304); `none` where the value does not parse or does not fit (U12). -/
def parseVal (t : SnapType) (l : Line) : Option SnapVal := (parseRaw t l).filter (SnapVal.fits t)

/-! The content (R301), field by field in its order. -/

/-- The ordinal of `lk_state`, in the order of 10_state.md R40. -/
def phaseOrdinal : LinkPhase → Nat
  | .inactive => 0
  | .prepareReceive => 1
  | .prepareSend => 2
  | .receive => 3
  | .send => 4

def phaseOfOrdinal (n : Nat) : Option LinkPhase :=
  [LinkPhase.inactive, .prepareReceive, .prepareSend, .receive, .send][n]?

/-- The ordinal of `lk_cont`, in the order of 10_state.md R46, the harness's tag last. -/
def contOrdinal : Continuation → Nat
  | .none => 0
  | .receiveReqAck => 1
  | .sendVariableData => 2
  | .receiveDataAck => 3
  | .endTransmission => 4
  | .endOutOfMemory => 5
  | .finalize => 6
  | .test => 7

/-- The tag of an ordinal: the seven of R46. "No host operation of CORE creates" the harness's tag (46_link_protocol.md R261), so
no ordinal loads it (entry 26). -/
def contOfOrdinal (n : Nat) : Option Continuation :=
  [Continuation.none, .receiveReqAck, .sendVariableData, .receiveDataAck, .endTransmission, .endOutOfMemory, .finalize][n]?

def Link.fileBytes (l : Link) : List Byte := (l.file.map OpenFile.bytes).getD []

def Link.filePos (l : Link) : Nat := (l.file.map OpenFile.pos).getD 0

/-- Every mutable element of 10_state.md but `cpu` (R301). -/
def State.snapshot (s : State) : List SnapVal :=
  [ .flag s.irqLine, .flag s.nmiLine, .buf (Memory.toBytesFrom ramFill s.ram 0 s.cfg.ramSize),
    .buf (Memory.toBytesFrom vramFill s.vram 0 vramSize), .num s.map.bankLow, .num s.map.bankHigh.toNat,
    .num s.disp.mode.toNat, .num s.disp.dir.toNat, .num s.disp.x.toNat, .num s.disp.y.toNat, .flag s.disp.moved,
    .num s.kbd.keyMask.toNat, .flag s.kbd.maskOn, .flag s.kbd.onLatch,
    .num s.link.lineOut.toNat, .num s.link.lineIn.toNat, .flag s.link.active, .num (phaseOrdinal s.link.phase),
    .buf s.link.queue, .num s.link.bits, .num s.link.bitStep, .num s.link.cur.toNat, .num s.link.toSend.toNat,
    .num (contOrdinal s.link.cont), .flag s.link.file.isSome, .buf s.link.fileBytes, .num s.link.filePos,
    .buf s.link.hdr, .buf s.link.var,
    .num s.ctr.frame, .num s.ctr.lag, .flag s.ctr.lagFlag, .flag s.ctr.isLag ]

/-- The types of the fields, in the same order: the width each has in 10_state.md. DESIGN CHOICE (entry 42): `xfer_hdr` and
`xfer_var` are of any length, and `xfer_pos` is any number. -/
def snapTypes (p : Params) : List SnapType :=
  [ .flag, .zeroFlag, .bufOf p.ramSize, .bufOf vramSize, .below (2 ^ p.bankLowBits), .below 2,
    .below 2, .below 4, .below 32, .below 64, .flag, .below 256, .flag, .flag,
    .below 4, .below 4, .flag, .below 5, .buf, .below 9, .below 6, .below 256, .below 65536, .below 7,
    .flag, .buf, .num, .buf, .buf, .num, .num, .flag, .flag ]

/-! Putting a content into a state. Of each field the content gives a value of its type or nothing; a field without a value
keeps the one it has (R304). -/

def numOr (vs : List (Option SnapVal)) (i : Nat) (keep : Nat) : Nat :=
  match vs[i]? with
  | some (some (.num n)) => n
  | _ => keep

def bitsOr (vs : List (Option SnapVal)) (i : Nat) {w : Nat} (keep : BitVec w) : BitVec w :=
  match vs[i]? with
  | some (some (.num n)) => BitVec.ofNat w n
  | _ => keep

def flagOr (vs : List (Option SnapVal)) (i : Nat) (keep : Bool) : Bool :=
  match vs[i]? with
  | some (some (.flag b)) => b
  | _ => keep

def bufOr (vs : List (Option SnapVal)) (i : Nat) (keep : List Byte) : List Byte :=
  match vs[i]? with
  | some (some (.buf bs)) => bs
  | _ => keep

def memoryOr (vs : List (Option SnapVal)) (i : Nat) (d : Byte) (keep : Memory) : Memory :=
  match vs[i]? with
  | some (some (.buf bs)) => Memory.ofBytesFrom d 0 bs
  | _ => keep

def phaseOr (vs : List (Option SnapVal)) (i : Nat) (keep : LinkPhase) : LinkPhase :=
  match vs[i]? with
  | some (some (.num n)) => (phaseOfOrdinal n).getD keep
  | _ => keep

def contOr (vs : List (Option SnapVal)) (i : Nat) (keep : Continuation) : Continuation :=
  match vs[i]? with
  | some (some (.num n)) => (contOfOrdinal n).getD keep
  | _ => keep

def restoreMapping (vs : List (Option SnapVal)) (m : Mapping) : Mapping :=
  { bankLow := numOr vs 4 m.bankLow, bankHigh := bitsOr vs 5 m.bankHigh }

def restoreDisplay (vs : List (Option SnapVal)) (d : Display) : Display where
  mode := bitsOr vs 6 d.mode
  dir := bitsOr vs 7 d.dir
  x := bitsOr vs 8 d.x
  y := bitsOr vs 9 d.y
  moved := flagOr vs 10 d.moved

def restoreKeyboard (vs : List (Option SnapVal)) (k : Keyboard) : Keyboard where
  keyMask := bitsOr vs 11 k.keyMask
  maskOn := flagOr vs 12 k.maskOn
  onLatch := flagOr vs 13 k.onLatch

/-- `xfer_file` from its three fields. DESIGN CHOICE (entry 43): a field the text does not name is taken from the file as it is, a
closed one as no bytes at position 0; the bytes and the position of a file that stays closed are dropped. DESIGN CHOICE (entry
42): a position past the file's end is loaded as it stands. -/
def restoreFile (vs : List (Option SnapVal)) (l : Link) : Option OpenFile :=
  if flagOr vs 24 l.file.isSome then some { bytes := bufOr vs 25 l.fileBytes, pos := numOr vs 26 l.filePos } else none

/-- The link group; the harness's counter is no field of a snapshot. DESIGN CHOICE (entry 42): an `xfer_hdr` of another length than
0 or 13 (10_state.md R47) is loaded as it stands. -/
def restoreLink (vs : List (Option SnapVal)) (l : Link) : Link where
  lineOut := bitsOr vs 14 l.lineOut
  lineIn := bitsOr vs 15 l.lineIn
  active := flagOr vs 16 l.active
  phase := phaseOr vs 17 l.phase
  queue := bufOr vs 18 l.queue
  bits := numOr vs 19 l.bits
  bitStep := numOr vs 20 l.bitStep
  cur := bitsOr vs 21 l.cur
  toSend := bitsOr vs 22 l.toSend
  cont := contOr vs 23 l.cont
  file := restoreFile vs l
  hdr := bufOr vs 27 l.hdr
  var := bufOr vs 28 l.var
  testCount := l.testCount

def restoreCounters (vs : List (Option SnapVal)) (c : Counters) : Counters where
  frame := numOr vs 29 c.frame
  lag := numOr vs 30 c.lag
  lagFlag := flagOr vs 31 c.lagFlag
  isLag := flagOr vs 32 c.isLag

/-- The state with a content and a CPU put into it. -/
def State.restore (s : State) (vs : List (Option SnapVal)) (cpu : Cpu) : State :=
  { s with
    cpu := cpu
    irqLine := flagOr vs 0 s.irqLine
    nmiLine := flagOr vs 1 s.nmiLine
    ram := memoryOr vs 2 ramFill s.ram
    vram := memoryOr vs 3 vramFill s.vram
    map := restoreMapping vs s.map
    disp := restoreDisplay vs s.disp
    kbd := restoreKeyboard vs s.kbd
    link := restoreLink vs s.link
    ctr := restoreCounters vs s.ctr }

/-! The text (R302, R303). -/

/-- The space between key and value. -/
def spaceChar : Byte := 0x20

def pcKey : Line := asc "PC"

def blockKey : Line := asc "BLOCK"

/-- `<key> <value>`. -/
def fieldLine (key : Line) (v : SnapVal) : Line := key ++ spaceChar :: printVal v

/-- The plain form of the CPU block (entry 21). -/
def plainCpu (c : Cpu) : Text := [fieldLine pcKey (.num c.pc), fieldLine blockKey (.buf c.block)]

/-- The text a serializer's list gives a state. -/
def codecText (codec : List (Cpu × Text)) (c : Cpu) : Option Text :=
  match codec with
  | [] => none
  | e :: rest => if e.1 = c then some e.2 else codecText rest c

/-- The state a serializer's list gives a text. -/
def codecCpu (codec : List (Cpu × Text)) (t : Text) : Option Cpu :=
  match codec with
  | [] => none
  | e :: rest => if e.2 = t then some e.1 else codecCpu rest t

/-- `save_cpu(cpu)`, the engine's own (40_cpu_sequencer.md R139, entry 2). -/
def saveCpu (e : Engine) (c : Cpu) : Text :=
  match e.kind with
  | .table t => (codecText t.codec c).getD (plainCpu c)
  | .own id => Config.ownSave id c

/-- The field lines, in the order of R301. DESIGN CHOICE (entry 39): with another number of keys than fields the shorter list
decides, so a missing key drops its field. -/
def fieldLines (s : State) : Text := List.zipWith fieldLine s.cfg.textKeys s.snapshot

/-- The CPU block between the engine's own markers (R302, R303). -/
def cpuLines (s : State) : Text := s.engine.openMark :: saveCpu s.engine s.cpu ++ [s.engine.closeMark]

/-- `SAVE_TEXT` (R302): the markers, and between them the field lines and the CPU block in the order that the parameters give.
DESIGN CHOICE (entry 50): an order that names a piece twice writes it twice, and one that leaves a piece out does not write it. -/
def saveLines (s : State) : Text :=
  let fields := fieldLines s
  let piece (item : TextItem) : Text :=
    match item with
    | .field i => (fields[i]?).toList
    | .cpuBlock => cpuLines s
  startMarker s.cfg :: (s.cfg.textOrder.flatMap piece ++ [endMarker s.cfg])

/-- The key and the value of a line, split "at the first space" (R304). DESIGN CHOICE (entry 41): a line without a space is all
key, with the empty value. -/
def splitLine (l : Line) : Line × Line :=
  (l.takeWhile fun c => c != spaceChar, (l.dropWhile fun c => c != spaceChar).drop 1)

/-- The value of a line whose key must be `key`. -/
def valueFor (key : Line) (t : SnapType) (l : Line) : Option SnapVal :=
  if (splitLine l).1 = key then parseVal t (splitLine l).2 else none

/-- Read the plain form. -/
def plainLoad (block : Text) : Option Cpu :=
  match block with
  | [a, b] =>
    match valueFor pcKey .num a, valueFor blockKey .buf b with
    | some (.num n), some (.buf bs) => some { pc := n, block := bs }
    | _, _ => none
  | _ => none

/-- What the engine's deserializer gives (40_cpu_sequencer.md R139); `none` where it rejects the block. -/
def engineLoad (e : Engine) (block : Text) : Option Cpu :=
  match e.kind with
  | .table t =>
    match codecCpu t.codec block with
    | some c => some c
    | none => plainLoad block
  | .own id => Config.ownLoad id block

/-- `load_cpu(lines)`: the engine's state, whose `cpu.PC` is `ADDR_BITS` wide (10_state.md R22); `none` where the block is
rejected (U12). -/
def loadCpu (p : Params) (e : Engine) (block : Text) : Option Cpu :=
  (engineLoad e block).filter fun c => decide (c.pc < 2 ^ p.addrBits)

/-- The place of a key in `TEXT_KEYS`. -/
def keyIndex (keys : List Line) (key : Line) : Option Nat :=
  match keys with
  | [] => none
  | k :: rest => if k = key then some 0 else (keyIndex rest key).map (· + 1)

/-- What a load has gathered: the values given so far, the CPU, and the UnknownKey notices. -/
structure LoadState where
  vals : List (Option SnapVal)
  cpu : Cpu
  notices : List Line
deriving DecidableEq, Repr

/-- One field line (R304): a recognised key's value, which must fit its field here, replaces the field; an unknown key is a
notice. DESIGN CHOICE (entry 39): a key of `TEXT_KEYS` beyond the fields is unknown, and of two equal keys the first place
counts. -/
def loadField (p : Params) (a : LoadState) (l : Line) : Option LoadState :=
  match keyIndex p.textKeys (splitLine l).1 with
  | none => some { a with notices := a.notices ++ [(splitLine l).1] }
  | some i =>
    match (snapTypes p)[i]? with
    | none => some { a with notices := a.notices ++ [(splitLine l).1] }
    | some t => (parseVal t (splitLine l).2).map fun v => { a with vals := a.vals.set i (some v) }

/-- Where the loader is in the text. -/
inductive LoadMode where
  | before                -- before the start marker
  | fields
  | inCpu (block : Text)  -- inside the CPU block, its lines so far
deriving DecidableEq, Repr

/-- The loop of `LOAD_TEXT` (R304), `none` where U12 refuses: a value that does not parse or fit, wherever it stands, a CPU block
that is rejected, a missing start or end marker. DESIGN CHOICE (entry 48): inside a CPU block every line up to the block's
closing mark is the block's, one that is the end marker too, so a text whose block is never closed has no end marker and is
refused. -/
def loadLines (p : Params) (e : Engine) (mode : LoadMode) (a : LoadState) (lines : Text) : Option LoadState :=
  match lines with
  | [] =>
    match mode with
    | .before => none
    | .fields => none
    | .inCpu _ => none
  | l :: rest =>
    match mode with
    | .before => if l = startMarker p then loadLines p e .fields a rest else loadLines p e .before a rest
    | .fields =>
      if l = endMarker p then some a
      else if l = e.openMark then loadLines p e (.inCpu []) a rest
      else
        match loadField p a l with
        | some a' => loadLines p e .fields a' rest
        | none => none
    | .inCpu block =>
      if l = e.closeMark then
        match loadCpu p e block with
        | some c => loadLines p e .fields { a with cpu := c } rest
        | none => none
      else loadLines p e (.inCpu (block ++ [l])) a rest

/-- A load starts with no value given; "loading does not reset anything first" (R304). -/
def State.loadStart (s : State) : LoadState :=
  { vals := List.replicate (snapTypes s.cfg).length none, cpu := s.cpu, notices := [] }

/-- What is fixed at construction and stands in no snapshot (R301). -/
def State.origin (s : State) : Origin := { cfg := s.cfg, startPc := s.startPc, rom := s.rom, engine := s.engine }

/-- The snapshot is not known to be of another instance (70_reset_and_hazards.md R367, entry 36). -/
def fromHere (snap : Snapshot) (s : State) : Bool :=
  match snap.origin with
  | none => true
  | some o => decide (o = s.origin)

/-- `SAVE_TEXT` (R302). -/
def execSaveText (s : State) : Result :=
  .next (s.withReply (.snapshot { text := saveLines s, origin := some s.origin }))

/-- `LOAD_TEXT(text)` (R304): fields the text does not name keep their values, and nothing is applied where U12 or U15
refuses. -/
def execLoadText (snap : Snapshot) (s : State) : Result :=
  if fromHere snap s then
    match loadLines s.cfg s.engine .before (State.loadStart s) snap.text with
    | none => .refused .badSnapshot
    | some a => .next ((s.restore a.vals a.cpu).withReply (.notices a.notices))
  else .refused .otherInstance

/-- `SAVE_BINARY` (R306): empty for this machine. -/
def execSaveBinary (s : State) : Result := .next (s.withReply (.bytes []))

/-- `LOAD_BINARY(bytes)` (R306): no state change, whatever the bytes. -/
def execLoadBinary (_bytes : List Byte) (s : State) : Result := .next s

end Sys2Proof.Machine
end

