-- ==== Sys2Proof/Machine/Dispatch.lean ====
section
/-! DEFINITION. The meaning of every instruction, one arm per row of spec/opcode_table.json. -/

namespace Sys2Proof.Machine

def exec (i : Instr) (s : State) : Host.Outcome State Fault Refusal :=
  match i with
  | .dispMode m => Sys2Proof.Machine.execDispMode m s
  | .dispNop23 n => Sys2Proof.Machine.execDispNop23 n s
  | .dispDir d => Sys2Proof.Machine.execDispDir d s
  | .dispScroll8 p => Sys2Proof.Machine.execDispScroll8 p s
  | .dispScroll16 p => Sys2Proof.Machine.execDispScroll16 p s
  | .dispScroll32 p => Sys2Proof.Machine.execDispScroll32 p s
  | .dispSetx u x => Sys2Proof.Machine.execDispSetx u x s
  | .dispSety r => Sys2Proof.Machine.execDispSety r s
  | .dispContrast k => Sys2Proof.Machine.execDispContrast k s
  | .memrdLow a => Sys2Proof.Machine.execMemrdLow a s
  | .memrdWindow a => Sys2Proof.Machine.execMemrdWindow a s
  | .memrdRam a => Sys2Proof.Machine.execMemrdRam a s
  | .memwrLow a v => Sys2Proof.Machine.execMemwrLow a v s
  | .memwrWindow a v => Sys2Proof.Machine.execMemwrWindow a v s
  | .memwrRam a v => Sys2Proof.Machine.execMemwrRam a v s
  | .iord0 => Sys2Proof.Machine.execIord0 s
  | .iowr0 v => Sys2Proof.Machine.execIowr0 v s
  | .iord1 => Sys2Proof.Machine.execIord1 s
  | .iowr1 v => Sys2Proof.Machine.execIowr1 v s
  | .iord2 => Sys2Proof.Machine.execIord2 s
  | .iowr2 v => Sys2Proof.Machine.execIowr2 v s
  | .iord3 => Sys2Proof.Machine.execIord3 s
  | .iowr3 v => Sys2Proof.Machine.execIowr3 v s
  | .iord4 => Sys2Proof.Machine.execIord4 s
  | .iowr4 v => Sys2Proof.Machine.execIowr4 v s
  | .iord16 => Sys2Proof.Machine.execIord16 s
  | .iowr16 v => Sys2Proof.Machine.execIowr16 v s
  | .iord17 => Sys2Proof.Machine.execIord17 s
  | .iowr17 v => Sys2Proof.Machine.execIowr17 v s
  | .iordOther p => Sys2Proof.Machine.execIordOther p s
  | .iowrOther p v => Sys2Proof.Machine.execIowrOther p v s
  | .construct args => Sys2Proof.Machine.execConstruct args s
  | .hardReset => Sys2Proof.Machine.execHardReset s
  | .frameAdvance => Sys2Proof.Machine.execFrameAdvance s
  | .sendFile bytes => Sys2Proof.Machine.execSendFile bytes s
  | .saveText => Sys2Proof.Machine.execSaveText s
  | .loadText snap => Sys2Proof.Machine.execLoadText snap s
  | .saveBinary => Sys2Proof.Machine.execSaveBinary s
  | .loadBinary bytes => Sys2Proof.Machine.execLoadBinary bytes s
  | .domainRead a => Sys2Proof.Machine.execDomainRead a s
  | .domainWrite a v => Sys2Proof.Machine.execDomainWrite a v s
  | .getFramebuffer => Sys2Proof.Machine.execGetFramebuffer s
  | .setButtons names => Sys2Proof.Machine.execSetButtons names s
  | .getCounter which => Sys2Proof.Machine.execGetCounter which s
  | .setCounter which n => Sys2Proof.Machine.execSetCounter which n s
  | .dispose => Sys2Proof.Machine.execDispose s
  | .irqAck => Sys2Proof.Machine.execIrqAck s

end Sys2Proof.Machine
end

