-- ==== Sys2Proof/Machine/Fetch.lean ====
section
/-! DEFINITION. How an operation an agent presents comes to run (00_scope.md R7, R8; entries 6, 7, 17). -/

namespace Sys2Proof.Machine

/-- `CONSTRUCT` makes a new instance; it is the one operation a disposed instance accepts. -/
def isConstruct (i : Instr) : Bool :=
  match i with
  | .construct _ => true
  | _ => false

/-- The bus transaction an operation is: a row of format `TXN` with the address or port number its word gives (30_encoding.md
R101), and a display command as the `IOWR 16` that carries its byte (R109, entry 11). -/
def instrTransaction (i : Instr) : Option Transaction :=
  match i with
  | .dispMode m => some (.iowr 16 (0b0000000#7 ++ m))
  | .dispNop23 n => some (.iowr 16 (0b0000001#7 ++ n))
  | .dispDir d => some (.iowr 16 (0b000001#6 ++ d))
  | .dispScroll8 p => some (.iowr 16 (0b00001#5 ++ p))
  | .dispScroll16 p => some (.iowr 16 (0b0001#4 ++ p))
  | .dispScroll32 p => some (.iowr 16 (0b001#3 ++ p))
  | .dispSetx u x => some (.iowr 16 (0b01#2 ++ u ++ x))
  | .dispSety r => some (.iowr 16 (0b10#2 ++ r))
  | .dispContrast k => some (.iowr 16 (0b11#2 ++ k))
  | .memrdLow a => some (.memrd (lowAddr a))
  | .memrdWindow a => some (.memrd (windowAddr a))
  | .memrdRam a => some (.memrd (ramAddr a))
  | .memwrLow a v => some (.memwr (lowAddr a) v)
  | .memwrWindow a v => some (.memwr (windowAddr a) v)
  | .memwrRam a v => some (.memwr (ramAddr a) v)
  | .iord0 => some (.iord 0)
  | .iowr0 v => some (.iowr 0 v)
  | .iord1 => some (.iord 1)
  | .iowr1 v => some (.iowr 1 v)
  | .iord2 => some (.iord 2)
  | .iowr2 v => some (.iowr 2 v)
  | .iord3 => some (.iord 3)
  | .iowr3 v => some (.iowr 3 v)
  | .iord4 => some (.iord 4)
  | .iowr4 v => some (.iowr 4 v)
  | .iord16 => some (.iord 16)
  | .iowr16 v => some (.iowr 16 v)
  | .iord17 => some (.iord 17)
  | .iowr17 v => some (.iowr 17 v)
  | .iordOther p => some (.iord p.toNat)
  | .iowrOther p v => some (.iowr p.toNat v)
  | .construct _ => none
  | .hardReset => none
  | .frameAdvance => none
  | .sendFile _ => none
  | .saveText => none
  | .loadText _ => none
  | .saveBinary => none
  | .loadBinary _ => none
  | .domainRead _ => none
  | .domainWrite _ _ => none
  | .getFramebuffer => none
  | .setButtons _ => none
  | .getCounter _ => none
  | .setCounter _ _ => none
  | .dispose => none
  | .irqAck => none

/-- The operation is the CPU Engine's: a transaction, or `IRQ_ACK` (00_scope.md R7). Every other operation is the host's. -/
def byEngine (i : Instr) : Bool := (instrTransaction i).isSome || decide (i = .irqAck)

/-- The machine has the address or the port number the operation names (20_memory.md R70). -/
def reaches (i : Instr) (s : State) : Bool :=
  match instrTransaction i with
  | some t => t.fits s.cfg
  | none => true

/-- "after it the instance accepts no operation" (48_host_interface.md R311). -/
def accepts (i : Instr) (s : State) : Bool := !s.disposed || isConstruct i

/-- Run an operation in its agent's turn: a transaction or a callback inside a frame, a host operation outside one; the
other interleavings have no step (00_scope.md R7, 40_cpu_sequencer.md R141, entry 12). A transaction of an address or a port
that the machine does not have stops as the Dispatcher stops it (entry 27). -/
def runInTurn (i : Instr) (s : State) : Result :=
  if byEngine i then
    if s.inFrame then (if reaches i s then exec i s else .fault .noSuchAddress) else .refused .noFrame
  else if s.inFrame then .refused .frameInProgress
  else exec i s

/-- Run one presented operation. -/
def runSlot (slot : Slot) (s : State) : Result :=
  match decode slot with
  | .error _ => .refused .undecodable
  | .ok i => if accepts i s then runInTurn i s else .refused .instanceDisposed

/-- Run the next presented operation; with none presented nothing happens (70_reset_and_hazards.md R354: "Nothing runs
until the host calls"). -/
def runNext (s : State) : Result :=
  match s.pending with
  | [] => .next s
  | slot :: rest => runSlot slot (s.withPending rest)

/-- Present an operation before those already presented. -/
def State.present (s : State) (slot : Slot) : State := s.withPending (slot :: s.pending)

/-- Present an operation in its agent's turn: inside a frame if it is the engine's, else outside one. -/
def State.presentInTurn (s : State) (slot : Slot) : State :=
  (s.present slot).withInFrame
    (match decode slot with
     | .ok i => byEngine i
     | .error _ => false)

end Sys2Proof.Machine
end

