-- ==== Sys2Proof/Machine/Step.lean ====
section
/-! DEFINITION. One step of CORE: the next operation an agent presents, run to completion (00_scope.md R8). -/

namespace Sys2Proof.Machine

/-- One step. -/
def step (s : State) : Host.Outcome State Fault Refusal := runNext s

/-- The state in which the next operation presented is the word `w` of the opcode table, in its agent's turn (entry 6). -/
def State.withFetchWord (s : State) (nbits w : Nat) : State := s.presentInTurn (tableSlot nbits w)

end Sys2Proof.Machine
end

