-- ==== Sys2Proof/Safety.lean ====
section
/-! DEFINITION. What counts as a safe run, and the invariants claims are stated with. -/

namespace Sys2Proof.Safety

open Sys2Proof.Machine

/-- A result that is a next state. -/
def completes (r : Result) : Prop := ∃ t, r = .next t

/-- The three memories are canonical and lie within their sizes; `cpu.PC`, `START_PC` and `bank_low` lie within their widths
(10_state.md R22, R27), the link counters within the ranges of R42 and R43, and `nmi_line` is 0 (60_exceptions.md R335). -/
structure InRange (s : State) : Prop where
  rom : Memory.wf romFill s.rom = true
  romBelow : Memory.below s.cfg.romSize s.rom = true
  ram : Memory.wf ramFill s.ram = true
  ramBelow : Memory.below s.cfg.ramSize s.ram = true
  vram : Memory.wf vramFill s.vram = true
  vramBelow : Memory.below vramSize s.vram = true
  pc : s.cpu.pc < 2 ^ s.cfg.addrBits
  startPc : s.startPc < 2 ^ s.cfg.addrBits
  bankLow : s.map.bankLow < 2 ^ s.cfg.bankLowBits
  bits : s.link.bits ≤ 8
  bitStep : s.link.bitStep ≤ 5
  nmi : s.nmiLine = false

/-- The link session is one the rules make (45_link_fsm.md R231, R234, 46_link_protocol.md R262): a Receive phase to come
has a byte queued; a Send phase expects at least one byte; the stage SendVariableData follows only a Send phase of eight
bytes; a running bit has its counters in range. -/
structure Session (l : Link) : Prop where
  queued : l.phase = .prepareReceive → l.queue ≠ []
  expected : l.phase = .prepareSend ∨ l.phase = .send → l.toSend ≠ 0
  eight : (l.phase = .prepareSend ∨ l.phase = .send) → l.cont = .sendVariableData →
    l.queue.length + l.toSend.toNat = 8
  fromSend : l.phase = .prepareReceive ∨ l.phase = .receive → l.cont ≠ .sendVariableData
  running : l.phase = .receive ∨ l.phase = .send → 1 ≤ l.bits ∧ l.bits ≤ 8 ∧ 1 ≤ l.bitStep ∧ l.bitStep ≤ 5

/-- The FSM pulls a line only inside a bit (45_link_fsm.md R246, R249, R250): in `Receive` from step 5 to step 3, in `Send`
from step 4 to step 2. -/
def LinesReleased (l : Link) : Prop :=
  match l.phase with
  | .receive => l.bitStep = 5 ∨ l.bitStep = 2 ∨ l.bitStep = 1 → l.lineIn = 0
  | .send => l.bitStep = 5 ∨ l.bitStep = 4 ∨ l.bitStep = 1 → l.lineIn = 0
  | .inactive => l.lineIn = 0
  | .prepareReceive => l.lineIn = 0
  | .prepareSend => l.lineIn = 0

/-- `link_active` in each phase of a session of the driver (46_link_protocol.md R262, R275). -/
def ActiveMatches (l : Link) : Prop :=
  l.phase ≠ .inactive →
    match l.cont with
    | .receiveReqAck => l.active = true
    | .receiveDataAck => l.active = true
    | .finalize => l.active = true
    | .sendVariableData => l.active = false
    | .endTransmission => l.active = false
    | .endOutOfMemory => l.active = false
    | .none => True
    | .test => True

/-- A state in which no operation can meet `fault(LinkQueueEmpty)`: the parameters are accepted and the session is one the
rules make. -/
structure Sound (s : State) : Prop where
  params : paramsOk s.cfg = true
  session : Session s.link

/-- The instruction is `LOAD_TEXT`, which may put any field value into the state (48_host_interface.md R304). -/
def isLoad (i : Instr) : Bool :=
  match i with
  | .loadText _ => true
  | _ => false

/-- The bus transaction touches the keyboard port (47_frame_scheduler.md R292). -/
def touchesPort1 (t : Transaction) : Bool :=
  match t with
  | .iord p => decide (p = 1)
  | .iowr p _ => decide (p = 1)
  | .memrd _ => false
  | .memwr _ _ => false

/-- The addresses and port numbers of a run are ones the machine has, whatever it is answered. -/
def runFits (p : Params) (r : EngineRun) : Bool :=
  match r with
  | .done => true
  | .compute _ rest => runFits p rest
  | .bus t rest => t.fits p && runFits p rest
  | .irqAck rest => runFits p rest
  | .onByte _ yes no => runFits p yes && runFits p no
  | .onIrq yes no => runFits p yes && runFits p no

/-- The engine is one for this machine: it issues addresses of `ADDR_BITS` and port numbers of `PORT_BITS` bits (20_memory.md
R70). -/
def EngineFits (e : Engine) (p : Params) : Prop := ∀ cpu n, runFits p (engineRun e cpu n) = true

/-- The transactions of one run of the engine, in order (40_cpu_sequencer.md R132). -/
def runTrace (r : EngineRun) (last : Option Byte) (s : State) : List Transaction :=
  match r with
  | .done => []
  | .compute c rest => runTrace rest last (s.withCpu c)
  | .bus t rest =>
    t :: (match serve t s with
          | .next u => runTrace rest (lastByte t u last) u
          | .fault _ => []
          | .refused _ => [])
  | .irqAck rest => runTrace rest last s.acknowledgeIrq
  | .onByte v yes no => if last = some v then runTrace yes last s else runTrace no last s
  | .onIrq yes no => if s.irqLine then runTrace yes last s else runTrace no last s

/-- The transactions of `n` bursts. -/
def burstsTrace (n : Nat) (s : State) : List Transaction :=
  match n with
  | 0 => []
  | n' + 1 =>
    runTrace (engineRun s.engine s.cpu s.cfg.cyclesPerBurst) none s.sampleOn ++
      (match burst s with
       | .next u => burstsTrace n' u
       | .fault _ => []
       | .refused _ => [])

/-- The engine touches the keyboard port in the frame the state is about to run. -/
def frameTouchesPort1 (s : State) : Bool := (burstsTrace s.cfg.burstsPerFrame s.openFrame).any touchesPort1

/-- The memory map of the default parameters (20_memory.md R72). -/
def DefaultMap (p : Params) : Prop := p.addrBits = 16 ∧ p.lowEnd = 0x4000 ∧ p.ramBase = 0x8000 ∧ p.ramSize = 0x8000

/-- The operation answers a next state under a condition that depends on its operands (`CONSTRUCT`, `SEND_FILE`,
`LOAD_TEXT`); each has a statement of its own. -/
def isConditional (i : Instr) : Bool :=
  match i with
  | .construct _ => true
  | .sendFile _ => true
  | .loadText _ => true
  | _ => false

/-- The operation may compute a VRAM offset: a display data access, or a frame in which the engine may make one. -/
def mayReachVram (i : Instr) : Bool :=
  match i with
  | .iord17 => true
  | .iowr17 _ => true
  | .frameAdvance => true
  | _ => false

/-- Transactions served in order. -/
def serveAll (ts : List Transaction) (s : State) : Result :=
  match ts with
  | [] => .next s
  | t :: rest => andThen (serve t s) (serveAll rest)

/-- The accesses by which the machine's program receives the bit `b` (45_link_fsm.md R249): it answers on the other line. -/
def receiveBit (b : Bool) : List Transaction :=
  [.iord 0, .iowr 0 (if b then 1 else 2), .iord 0, .iord 0, .iowr 0 0, .iord 0, .iord 0]

/-- What those reads return, with `bank_high` = 0. -/
def receiveReads (b : Bool) : List Byte := if b then [0x04, 0x01, 0x09, 0x0C, 0x0C] else [0x08, 0x02, 0x06, 0x0C, 0x0C]

/-- The same where the writes tick (95_test_vectors.md V-LK2). -/
def receiveBitTicking (b : Bool) : List Transaction := [.iord 0, .iowr 0 (if b then 1 else 2), .iord 0, .iowr 0 0, .iord 0]

/-- What those reads return. -/
def receiveReadsTicking (b : Bool) : List Byte := if b then [0x04, 0x09, 0x0C] else [0x08, 0x06, 0x0C]

/-- The line the machine's program pulls to send the bit `b` (R250). -/
def sendLine (b : Bool) : Byte := if b then 2 else 1

/-- The accesses by which it sends the bit. -/
def sendBit (b : Bool) : List Transaction :=
  [.iowr 0 (sendLine b), .iord 0, .iord 0, .iowr 0 0, .iord 0, .iord 0, .iord 0]

/-- What those reads return, with `bank_high` = 0. -/
def sendReads (b : Bool) : List Byte := if b then [0x06, 0x02, 0x08, 0x0C, 0x0C] else [0x09, 0x01, 0x04, 0x0C, 0x0C]

/-- The bits of a byte, least significant first. -/
def bitsOf (v : Byte) : List Bool := (List.range 8).map fun i => v.getLsbD i

/-- The lines are released and port 0 has its default layout with `bank_high` = 0: where the exchange of a byte starts. -/
structure ExchangeStart (s : State) : Prop where
  lineOut : s.link.lineOut = 0
  lineIn : s.link.lineIn = 0
  layout : s.cfg.bankHighSrcBit = 4
  bankHigh : s.map.bankHigh = 0

/-- The lines of a snapshot's text can be told apart (48_host_interface.md R302, R303) and none is missing: as many keys as fields,
no two equal, no space in a key or in the end marker, and an order of every field and the CPU block. -/
structure TextNamesOk (p : Params) : Prop where
  count : p.textKeys.length = (snapTypes p).length
  noRepeats : p.textKeys.Nodup
  noSpace : ∀ k ∈ p.textKeys, spaceChar ∉ k
  marker : spaceChar ∉ endMarker p
  order : p.textOrder.Perm ((List.range (snapTypes p).length).map .field ++ [.cpuBlock])

/-- What 48_host_interface.md R303 and 40_cpu_sequencer.md R139 require of the engine's serializer: the round trip law, and a
block that can be told apart from CORE's own lines. -/
structure EngineTextOk (e : Engine) (p : Params) : Prop where
  law : ∀ c, engineLoad e (saveCpu e c) = some c
  closes : ∀ c, e.closeMark ∉ saveCpu e c
  noSpace : spaceChar ∉ e.openMark
  notEnd : e.openMark ≠ endMarker p

/-- Where a field line may stand: after these lines, read from after the start marker (`inside` = false), the end marker has not
been met and the CPU block is not open (48_host_interface.md R302, R304; a block ends at its closing mark alone, entry 48). -/
def betweenFields (p : Params) (e : Engine) (inside : Bool) (lines : Text) : Bool :=
  match lines with
  | [] => !inside
  | l :: rest =>
    if inside then betweenFields p e (decide (l ≠ e.closeMark)) rest
    else decide (l ≠ endMarker p) && betweenFields p e (decide (l = e.openMark)) rest

/-- How many pressed buttons of the groups that `mask` selects map to bit `b` (30_encoding.md R105, 44_input_mux.md R221). -/
def pressedOnBit (s : State) (mask : Byte) (b : Nat) : Nat :=
  (((List.range 7).filter fun g => !mask.getLsbD g).map fun g =>
    (s.cfg.keymap.getD g []).countP fun e => s.btn e.1 && decide (e.2 = b)).sum

/-- The state without what no behaviour of CORE depends on: the memory hooks (20_memory.md R87), what the agents present
next, what was delivered, notified and replied, and the harness's counter. -/
def bare (s : State) : State :=
  { s with
    hooks := { s.hooks with read := false, write := false }
    link := { s.link with testCount := 0 }
    pending := []
    delivered := []
    hookLog := []
    reply := .none }

/-- What `send_next_file` makes of the link where the file `f` has an entry left (46_link_protocol.md R266): 13 bytes of header,
the next L + 2 bytes with zero bytes for those that are missing, the request of 17 bytes, and the flag. -/
def requestNextEntry (p : Params) (l : Link) (f : OpenFile) : Link :=
  let hdr := (f.bytes.drop f.pos).take 13
  let n := (hdr.getD p.linkLenOffset.val 0).toNat + 256 * (hdr.getD (p.linkLenOffset.val + 1) 0).toNat + 2
  let got := (f.bytes.drop (f.pos + 13)).take n
  let ck := ((hdr.drop p.linkReqCkStart).map BitVec.toNat).sum % 65536
  { l with
    file := some { bytes := f.bytes, pos := f.pos + 13 + got.length }
    hdr := hdr
    var := got ++ List.replicate (n - got.length) 0x00
    queue := p.linkReq.toList ++ hdr ++ [BitVec.ofNat 8 ck, BitVec.ofNat 8 (ck / 256)]
    phase := .prepareReceive
    cont := .receiveReqAck
    active := true }

/-- Operations run one after the other. -/
def runAll (ops : List Instr) (s : State) : Result :=
  match ops with
  | [] => .next s
  | i :: rest => andThen (exec i s) (runAll rest)

/-- From `s` and from `t` the operations end alike: in the same machine with the same bytes delivered on the way, the same
hooks called if the same are registered, and the same last reply, or at the same fault or refusal. -/
def SameEnd (s t : State) (ops : List Instr) : Prop :=
  match runAll ops s with
  | .next u =>
    ∃ w, runAll ops t = .next w ∧ bare u = bare w ∧
      (∃ bs, u.delivered = s.delivered ++ bs ∧ w.delivered = t.delivered ++ bs) ∧
      (s.hooks = t.hooks → ∃ hs, u.hookLog = s.hookLog ++ hs ∧ w.hookLog = t.hookLog ++ hs) ∧
      ((u.reply = s.reply ∧ w.reply = t.reply) ∨ u.reply = w.reply)
  | .fault e => runAll ops t = .fault e
  | .refused e => runAll ops t = .refused e

/-- The pixel at a row and a column: bit `7 - col % 8` of its byte (10_state.md R26). -/
def pixelBit (s : State) (row col : Nat) : Bool := (s.vramByte (row * rowStride + col / 8)).getLsbD (7 - col % 8)

end Sys2Proof.Safety
end

