-- ==== Sys2Proof/Certificates/Slice0/Obligations.lean ====
section
/-! DEFINITION. The statements for the provers. Each docstring names the rules or the sections it formalises; a clause that
rests on a decision of the spec or on a choice of the model says so. -/

open Sys2Proof Sys2Proof.Machine Sys2Proof.Safety

/-! ## Encoding and stepping -/

/-- Decoding the encoding of a well-formed instruction gives it back, whatever its operands (30_encoding.md R101, R110,
R122). The byte order of a word and the place of the arguments are the model's notation (entries 8, 9). -/
def Obligations.DecodeOfEncode : Prop := ∀ i : Instr, i.wf = true → decode (encode i) = .ok i

/-- A bus transaction is encoded as the 18-bit word of R101 (kind, then address or port) and, for a write, its data byte, so
no two transactions share a word, and the row the word decodes to is that transaction; every one of the 256 display command
bytes decodes to a command that encodes to it and is the `IOWR 16` of that byte (30_encoding.md R101, R109, R110). -/
def Obligations.TransactionAndCommandWords : Prop :=
  (∀ a, encode (decodeMemrd a) = txnSlot 0b00#2 a [] ∧ instrTransaction (decodeMemrd a) = some (.memrd a.toNat)) ∧
  (∀ a v, encode (decodeMemwr a v) = txnSlot 0b01#2 a [v] ∧
    instrTransaction (decodeMemwr a v) = some (.memwr a.toNat v)) ∧
  (∀ p, encode (decodeIord p) = txnSlot 0b10#2 p [] ∧ instrTransaction (decodeIord p) = some (.iord p.toNat)) ∧
  (∀ p v, encode (decodeIowr p v) = txnSlot 0b11#2 p [v] ∧ instrTransaction (decodeIowr p v) = some (.iowr p.toNat v)) ∧
  (∀ c : Byte, encode (decodeDcmd c) = dcmdSlot c ∧ instrTransaction (decodeDcmd c) = some (.iowr 16 c))

/-- Words written out from the tables of 30_encoding.md (R101, R110, R122) and the programs of 95_test_vectors.md decode to
the operations they stand for. Three things in it are the model's notation and not the tables': where the data byte of a write
stands and that 0x40000 is refused (entry 8), and that a word of at most 8 bits below 16 is a host operation (entry 10: by R110
the byte 0x02 alone is `DISP_NOP23`). -/
def Obligations.TableWordsDecode : Prop :=
  decodeTableWord 24 0x00000 = some (.memrdLow 0) ∧
  decodeTableWord 24 0x07FFF = some (.memrdWindow 0x3FFF) ∧
  decodeTableWord 24 0x0FFFF = some (.memrdRam 0x7FFF) ∧
  decodeTableWord 32 0x5A018000 = some (.memwrRam 0 0x5A) ∧
  decodeTableWord 24 0x20000 = some .iord0 ∧
  decodeTableWord 32 0x01030010 = some (.iowr16 0x01) ∧
  decodeTableWord 24 0x20100 = some (.iordOther 0x0100) ∧
  decodeTableWord 8 0x45 = some (.dispSetx 0 5) ∧
  decodeTableWord 8 0xBF = some (.dispSety 63) ∧
  decodeTableWord 8 0x2 = some .frameAdvance ∧
  decodeTableWord 24 0x40000 = none

/-- A step takes the next presented operation from the list and, when its bytes decode to an instruction and its agent may act
(00_scope.md R7: the engine while a `FRAME_ADVANCE` is in progress, the host while none is), is exec of that instruction (R8:
each operation runs to completion before the next). How operations are presented is the model's (entry 6), and so is that a
transaction of an address or a port the machine does not have (20_memory.md R70) stops the model (entry 27). -/
def Obligations.StepRunsTheDecodedOperation : Prop :=
  ∀ (s : State) (slot : Slot) (rest : List Slot) (i : Instr),
    s.pending = slot :: rest → decode slot = .ok i → s.disposed = false → byEngine i = s.inFrame →
      ((∀ t, instrTransaction i = some t → t.fits s.cfg = true) → step s = exec i { s with pending := rest }) ∧
      (∀ t, instrTransaction i = some t → t.fits s.cfg = false → step s = .fault .noSuchAddress)

/-- Where a step runs nothing: with nothing presented the state stays (70_reset_and_hazards.md R354, entry 7), and an
operation that does not decode is refused by name (entry 8). No operation that decodes is refused for the form of its
arguments: the decoder yields well-formed instructions only (entry 9). -/
def Obligations.StepStopsByName : Prop :=
  (∀ s : State, s.pending = [] → step s = .next s) ∧
  (∀ (s : State) slot rest e, s.pending = slot :: rest → decode slot = .error e → step s = .refused .undecodable) ∧
  (∀ (slot : Slot) i, decode slot = .ok i → i.wf = true)

/-- Only the agent whose turn it is acts: a transaction, a display command or an `IRQ_ACK` presented while no `FRAME_ADVANCE` is
in progress has no step, nor has a host operation presented while one is (00_scope.md R7, 40_cpu_sequencer.md R141; that "no
step" is a refusal by name is the model's, entry 12). Which agent an operation belongs to is seen from its format. And no step
leaves a frame open or closed that was not so before: a `FRAME_ADVANCE` runs to its end within its step (R8). -/
def Obligations.AgentsActInTurn : Prop :=
  (∀ (s : State) slot rest i, s.pending = slot :: rest → decode slot = .ok i → s.disposed = false → s.inFrame = false →
    (slot.format ≠ .hostop ∨ i = .irqAck) → step s = .refused .noFrame) ∧
  (∀ (s : State) slot rest i, s.pending = slot :: rest → decode slot = .ok i → s.disposed = false → s.inFrame = true →
    slot.format = .hostop → i ≠ .irqAck → step s = .refused .frameInProgress) ∧
  (∀ s t : State, step s = .next t → t.inFrame = s.inFrame)

/-- `DISPOSE` changes nothing but that the instance accepts no operation afterwards, `CONSTRUCT` of a new one excepted
(48_host_interface.md R311; that the new instance takes the old one's place is the model's, entry 17). -/
def Obligations.DisposeEndsTheInstance : Prop :=
  (∀ s : State, exec .dispose s = .next { s with disposed := true }) ∧
  (∀ (s : State) slot rest i, s.disposed = true → s.pending = slot :: rest → decode slot = .ok i →
    isConstruct i = false → step s = .refused .instanceDisposed) ∧
  (∀ (s : State) slot rest args, s.inFrame = false → s.pending = slot :: rest → decode slot = .ok (.construct args) →
    step s = exec (.construct args) { s with pending := rest })

/-- The Dispatcher serves a transaction as the row of the table it is (41_memory_dispatch.md R150, 42_port_dispatch.md
R160), and an `IOWR 16` of a byte does what the display command of that byte does, for all 256 bytes (43_display.md R190,
30_encoding.md R109: "Exactly one rule fires per write"). A transaction of an address or a port the machine does not have
(20_memory.md R70) stops the model (its choice, entry 27). -/
def Obligations.DispatcherServesTheRow : Prop :=
  (∀ (i : Instr) (t : Transaction) (s : State), i.wf = true → instrTransaction i = some t → t.fits s.cfg = true →
    serve t s = exec i s) ∧
  (∀ (t : Transaction) (s : State), t.fits s.cfg = false → serve t s = .fault .noSuchAddress) ∧
  (∀ (c : Byte) (s : State), exec (.iowr16 c) s = exec (decodeDcmd c) s)
/-! ## Invariants and whole-machine rules -/

/-- The state after `CONSTRUCT` meets the invariants below. -/
def Obligations.ResetMeetsTheInvariants : Prop :=
  InRange State.reset ∧ Sound State.reset ∧ LinesReleased State.reset.link ∧ ActiveMatches State.reset.link

/-- The values after `CONSTRUCT` (10_state.md R52): RAM all ones, every register zero or empty, both link lines released, no
session, no file, the interrupt lines released, the counters zero. That `mask_on`, `on_latch`, the link queue, continuation and
file, the interrupt lines, the counters and VRAM are cleared too is the spec's decision D35; the harness's counter is entry
26. -/
def Obligations.ResetValues : Prop :=
  (∀ i, State.reset.ramByte i = 0xFF) ∧ (∀ i, State.reset.vramByte i = 0x00) ∧
  State.reset.cpu.pc = State.reset.startPc ∧ State.reset.irqLine = false ∧ State.reset.nmiLine = false ∧
  State.reset.bank = 0 ∧ State.reset.map = { bankLow := 0, bankHigh := 0 } ∧
  State.reset.disp = { mode := 0, dir := 0, x := 0, y := 0, moved := false } ∧
  State.reset.kbd = { keyMask := 0, maskOn := false, onLatch := false } ∧ State.reset.link.combined = 3 ∧
  State.reset.link = { lineOut := 0, lineIn := 0, active := false, phase := .inactive, queue := [], bits := 0, bitStep := 0,
                       cur := 0, toSend := 0, cont := .none, file := none, hdr := [], var := [], testCount := 0 } ∧
  State.reset.ctr = { frame := 0, lag := 0, lagFlag := false, isLag := false }

/-- Every step keeps the parameters accepted, the memories canonical and within their sizes, `cpu.PC`, `START_PC` and `bank_low`
within their widths, the link counters in range and `nmi_line` at 0 (10_state.md R22, R24 to R27, R42, R43, 60_exceptions.md
R335), from every such state, `LOAD_TEXT` included (entries 20, 27, 32). -/
def Obligations.EveryStepKeepsRanges : Prop :=
  ∀ s t : State, paramsOk s.cfg = true → InRange s → step s = .next t → paramsOk t.cfg = true ∧ InRange t

/-- Every step but a `LOAD_TEXT` keeps the link session one the rules make (45_link_fsm.md R231 to R247, 46_link_protocol.md
R262). `LOAD_TEXT` may set any field (48_host_interface.md R304). -/
def Obligations.EveryStepKeepsTheSession : Prop :=
  ∀ s t : State, Sound s →
    (∀ slot rest i, s.pending = slot :: rest → decode slot = .ok i → isLoad i = false) →
      step s = .next t → Sound t

/-- "queue read only when non-empty per transition rules": from a session the rules make, no step reads an empty queue
(45_link_fsm.md R234, 93_implementation_defined.md U2 "unreachable from the rules"). -/
def Obligations.NoStepReadsAnEmptyQueue : Prop := ∀ s : State, Sound s → step s ≠ .fault .linkQueueEmpty

/-- Outside a bit's exchange the FSM pulls no line (45_link_fsm.md R238, R244, R246, R249, R250), `link_active` is 1 in the
driver's `Receive` phases and 0 in its `Send` phases (46_link_protocol.md R275), and every step but a `LOAD_TEXT` keeps
each of the two. -/
def Obligations.EveryStepKeepsTheLinesAndTheFlag : Prop :=
  ∀ s t : State,
    (∀ slot rest i, s.pending = slot :: rest → decode slot = .ok i → isLoad i = false) → step s = .next t →
      (LinesReleased s.link → LinesReleased t.link) ∧ (ActiveMatches s.link → ActiveMatches t.link)

/-- From a session the rules make, every operation that can compute no VRAM offset and has no condition on its operands
answers a next state (60_exceptions.md R320: CORE has no error, trap or stall of its own). With `VRAM_OOB` = sentinel the
display accesses and whole frames complete too, whatever the engine does in them, as long as it issues addresses the machine
has (43_display.md R204, 47_frame_scheduler.md R291: "it always runs to completion"; entry 27). -/
def Obligations.OperationsComplete : Prop :=
  (∀ (i : Instr) (s : State), Sound s → isConditional i = false → mayReachVram i = false → completes (exec i s)) ∧
  (∀ (i : Instr) (s : State), Sound s → s.cfg.vramOob = .sentinel → isConditional i = false →
    (i = .frameAdvance → EngineFits s.engine s.cfg) → completes (exec i s))

/-- Determinism (40_cpu_sequencer.md R133, 47_frame_scheduler.md R297, the second half of 48_host_interface.md R305): from two
states that agree on CORE's state, the engine, the parameters and the inputs, every sequence of operations ends alike: the
engine makes the same transactions and gets the same bytes, the replies are the same (the frame buffer among them), and the
machines agree again. The engine is the function R133 asks for by its type (entry 2). -/
def Obligations.SameStateSameResults : Prop :=
  ∀ (s t : State) (ops : List Instr), bare s = bare t → SameEnd s t ops

/-- No operation but `CONSTRUCT` changes the parameters, ROM, `START_PC`, the hooks or the engine (10_state.md R20, R24: "never
mutated"). -/
def Obligations.ConstructionInputsFixed : Prop :=
  ∀ (i : Instr) (s t : State), exec i s = .next t → isConstruct i = false →
    t.cfg = s.cfg ∧ t.rom = s.rom ∧ t.startPc = s.startPc ∧ t.hooks = s.hooks ∧ t.engine = s.engine

/-- What a bus transaction can reach (20_memory.md R70, 60_exceptions.md R332): RAM only by `MEMWR`; VRAM and the cursor only
by the display ports; the bank registers only by ports 0 and 2; the keyboard and status registers only by ports 1 and 3;
the link only by port 0; never the CPU's registers, the interrupt lines, ROM, the counters or `is_lag`, or what the host
holds. -/
def Obligations.BusFootprint : Prop :=
  ∀ (t : Transaction) (s u : State), serve t s = .next u →
    u.cpu = s.cpu ∧ u.irqLine = s.irqLine ∧ u.nmiLine = s.nmiLine ∧ u.rom = s.rom ∧ u.cfg = s.cfg ∧
    u.ctr.frame = s.ctr.frame ∧ u.ctr.lag = s.ctr.lag ∧ u.ctr.isLag = s.ctr.isLag ∧
    u.engine = s.engine ∧ u.inFrame = s.inFrame ∧ u.pending = s.pending ∧ u.disposed = s.disposed ∧ u.reply = s.reply ∧
    ((∀ a v, t ≠ .memwr a v) → u.ram = s.ram) ∧
    ((∀ v, t ≠ .iowr 17 v) → u.vram = s.vram) ∧
    ((t ≠ .iord 17 ∧ (∀ v, t ≠ .iowr 16 v) ∧ (∀ v, t ≠ .iowr 17 v)) → u.disp = s.disp) ∧
    (((∀ v, t ≠ .iowr 0 v) ∧ (∀ v, t ≠ .iowr 2 v)) → u.map = s.map) ∧
    (((∀ v, t ≠ .iowr 1 v) ∧ (∀ v, t ≠ .iowr 3 v)) → u.kbd = s.kbd) ∧
    ((t ≠ .iord 0 ∧ (∀ v, t ≠ .iowr 0 v)) → u.link = s.link) ∧
    ((t ≠ .iord 1 ∧ (∀ v, t ≠ .iowr 1 v)) → u.ctr = s.ctr) ∧
    (t ≠ .iord 1 → u.buttons = s.buttons ∧ u.pollFeed = s.pollFeed)

/-- Removing the trace hooks changes no state transition of a bus transaction (20_memory.md R87): with other hooks
registered for memory accesses the transaction ends alike, and leaves the same state but for the hooks and their log. -/
def Obligations.TraceHooksOnlyObserve : Prop :=
  ∀ (t : Transaction) (s u : State) (r w : Bool) (log : List HookEvent), serve t s = .next u →
    ∃ log', serve t { s with hooks := { s.hooks with read := r, write := w }, hookLog := log } =
      .next { u with hooks := { u.hooks with read := r, write := w }, hookLog := log' }

/-! ## Memory transactions -/

/-- `MEMRD` under every memory map (41_memory_dispatch.md R151, 20_memory.md R72, R73): a read of any address the machine has
delivers the byte that `memByte` gives, notifies the hook of the address as issued, and changes nothing else; the byte is that of
low ROM in bank 0, of the window in bank `bank_low | (bank_high << BANK_LOW_BITS)`, or of RAM, and under an accepted map the
window lies within the ROM (10_state.md R27). The same of the three rows of the table under the default map. The boundaries and
the bank formula are the spec's decisions D3, D4. -/
def Obligations.MemrdRowsReadTheirRegion : Prop :=
  (∀ (s : State) (addr : Nat),
    let bank := s.map.bankLow ||| (s.map.bankHigh.toNat <<< s.cfg.bankLowBits)
    let romIndex := bank * (s.cfg.ramBase - s.cfg.lowEnd) + (addr - s.cfg.lowEnd)
    (addr < 2 ^ s.cfg.addrBits → serve (.memrd addr) s = .next { s with
      delivered := s.delivered ++ [s.memByte addr]
      hookLog := if s.hooks.read then s.hookLog ++ [.read addr] else s.hookLog }) ∧
    (addr < s.cfg.lowEnd → s.memByte addr = s.romByte addr) ∧
    (s.cfg.lowEnd ≤ addr → addr < s.cfg.ramBase → s.memByte addr = s.romByte romIndex ∧
      (mapOk s.cfg = true → s.map.bankLow < 2 ^ s.cfg.bankLowBits → romIndex < s.cfg.romSize)) ∧
    (mapOk s.cfg = true → s.cfg.ramBase ≤ addr → addr < s.cfg.ramBase + s.cfg.ramSize →
      s.memByte addr = s.ramByte (addr - s.cfg.ramBase))) ∧
  ∀ s : State, DefaultMap s.cfg →
    (∀ a : BitVec 14, exec (.memrdLow a) s = .next { s with
      delivered := s.delivered ++ [s.romByte a.toNat]
      hookLog := if s.hooks.read then s.hookLog ++ [.read a.toNat] else s.hookLog }) ∧
    (∀ a : BitVec 14, exec (.memrdWindow a) s = .next { s with
      delivered := s.delivered ++
        [s.romByte ((s.map.bankLow ||| (s.map.bankHigh.toNat <<< s.cfg.bankLowBits)) * 0x4000 + a.toNat)]
      hookLog := if s.hooks.read then s.hookLog ++ [.read (0x4000 + a.toNat)] else s.hookLog }) ∧
    (∀ a : BitVec 15, exec (.memrdRam a) s = .next { s with
      delivered := s.delivered ++ [s.ramByte a.toNat]
      hookLog := if s.hooks.read then s.hookLog ++ [.read (0x8000 + a.toNat)] else s.hookLog }) ∧
    (s.map.bankLow < 2 ^ s.cfg.bankLowBits → ∀ a : BitVec 14,
      (s.map.bankLow ||| (s.map.bankHigh.toNat <<< s.cfg.bankLowBits)) =
        s.map.bankLow + 2 ^ s.cfg.bankLowBits * s.map.bankHigh.toNat ∧
      (s.map.bankLow ||| (s.map.bankHigh.toNat <<< s.cfg.bankLowBits)) * 0x4000 + a.toNat < s.cfg.romSize)

/-- The three `MEMWR` rows under the default map (41_memory_dispatch.md R152): a write to ROM is ignored, a write to RAM is
applied, the hook is notified in every case, and nothing else changes. -/
def Obligations.MemwrRowsStoreOnlyInRam : Prop :=
  ∀ (s : State) (v : Byte), DefaultMap s.cfg →
    (∀ a : BitVec 14, exec (.memwrLow a v) s = .next { s with
      hookLog := if s.hooks.write then s.hookLog ++ [.write a.toNat] else s.hookLog }) ∧
    (∀ a : BitVec 14, exec (.memwrWindow a v) s = .next { s with
      hookLog := if s.hooks.write then s.hookLog ++ [.write (0x4000 + a.toNat)] else s.hookLog }) ∧
    (∀ a : BitVec 15, exec (.memwrRam a v) s = .next { s with
      ram := Memory.write ramFill s.ram a.toNat v
      hookLog := if s.hooks.write then s.hookLog ++ [.write (0x8000 + a.toNat)] else s.hookLog })

/-- A byte stored to a RAM address reads back exactly there, and every other address reads as before (20_memory.md R81,
R88), for every memory map: the frame of a store. -/
def Obligations.RamRoundTrip : Prop :=
  ∀ (s : State) (addr : Nat) (v : Byte), InRange s → mapOk s.cfg = true → s.cfg.ramBase ≤ addr →
    addr < s.cfg.ramBase + s.cfg.ramSize →
      ∃ t, serve (.memwr addr v) s = .next t ∧ t.memByte addr = v ∧ (∀ b, b ≠ addr → t.memByte b = s.memByte b) ∧
        t = { s with ram := t.ram, hookLog := t.hookLog }

/-- Below `RAM_BASE` a write alters no element of state, and below `LOW_END` a read gives the ROM byte of that offset
whatever the bank registers hold (20_memory.md R88), for every memory map. -/
def Obligations.RomIsReadOnly : Prop :=
  ∀ (s : State) (addr : Nat) (v : Byte), mapOk s.cfg = true → addr < s.cfg.ramBase →
    (∃ log, serve (.memwr addr v) s = .next { s with hookLog := log }) ∧
    (addr < s.cfg.lowEnd → ∀ m : Mapping, (s.withMap m).memByte addr = s.romByte addr)

/-- An address of the machine in none of the three ranges reads 0xFF, a write to it is dropped, the hooks still fire, and the
default map has no such address (20_memory.md R74). -/
def Obligations.UnmappedAddresses : Prop :=
  (∀ (s : State) (addr : Nat) (v : Byte), mapOk s.cfg = true → s.cfg.ramBase + s.cfg.ramSize ≤ addr →
    addr < 2 ^ s.cfg.addrBits →
    serve (.memrd addr) s = .next { s with
      delivered := s.delivered ++ [0xFF]
      hookLog := if s.hooks.read then s.hookLog ++ [.read addr] else s.hookLog } ∧
    serve (.memwr addr v) s = .next { s with
      hookLog := if s.hooks.write then s.hookLog ++ [.write addr] else s.hookLog }) ∧
  (∀ (p : Params) (addr : Nat), DefaultMap p → addr < 2 ^ p.addrBits → ¬ p.ramBase + p.ramSize ≤ addr)

/-! ## Port 0 and the link -/

/-- Port 0 (42_port_dispatch.md R161, R162; decisions D5, D7, D8, D9). A write loads `bank_high` and `link_out`; with
`link_active` = 1 and code at or above `LOW_END` a tick follows, with code below it none does (or, with the other filter
scope, nothing is loaded), and with `link_active` = 0 none does. A read ticks first and delivers the value composed after
the tick; with no session the tick is void and the value is `(bank_high << 4) | (combined() << 2) | link_out` (decision D6).
In a session the rules make all of these complete, and nothing else changes. With a `BANK_HIGH_SRC_BIT` of 8 or more, which
loads 0, or of 0 or 1, which `link_out` is loaded from too, what is loaded is the model's choice (entry 44). -/
def Obligations.PortZeroAccesses : Prop :=
  ∀ s : State,
    (∀ v, s.link.active = false ∨ (s.cpu.pc < s.cfg.lowEnd ∧ s.cfg.filterScope = .tickOnly) →
      exec (.iowr0 v) s = .next { s with
        map := { s.map with bankHigh := v.extractLsb' s.cfg.bankHighSrcBit 1 }
        link := { s.link with lineOut := v.extractLsb' 0 2 } }) ∧
    (∀ v, s.link.active = true → s.cpu.pc < s.cfg.lowEnd → s.cfg.filterScope = .wholeWrite →
      exec (.iowr0 v) s = .next s) ∧
    (∀ v, Sound s → s.link.active = true → s.cfg.lowEnd ≤ s.cpu.pc →
      ∃ l, ({ s.link with lineOut := v.extractLsb' 0 2 } : Link).tick s.cfg = .ok l ∧
        exec (.iowr0 v) s = .next { s with
          map := { s.map with bankHigh := v.extractLsb' s.cfg.bankHighSrcBit 1 }
          link := l }) ∧
    (Sound s → ∃ l, s.link.tick s.cfg = .ok l ∧ exec .iord0 s = .next { s with
      link := l
      delivered := s.delivered ++ [({ s with link := l } : State).port0Value] }) ∧
    (s.link.phase = .inactive → exec .iord0 s = .next { s with
      delivered := s.delivered ++
        [BitVec.ofNat 8 (16 * s.map.bankHigh.toNat +
          4 * (3 - (s.link.lineOut ||| s.link.lineIn).toNat) + s.link.lineOut.toNat)] })

/-- A tick that finds its wait condition false changes nothing at all: `Receive` steps 4 and 2, `Send` steps 5 and 3, and
`PrepareSend` (45_link_fsm.md R248). -/
def Obligations.StalledTicksChangeNothing : Prop :=
  ∀ s : State,
    (s.link.phase = .receive ∧ s.link.bitStep = 4 ∧ s.link.combined ≠ 0) ∨
    (s.link.phase = .receive ∧ s.link.bitStep = 2 ∧ s.link.combined ≠ 3) ∨
    (s.link.phase = .send ∧ s.link.bitStep = 5 ∧ s.link.combined = 3) ∨
    (s.link.phase = .send ∧ s.link.bitStep = 3 ∧ s.link.lineOut ≠ 0) ∨
    (s.link.phase = .prepareSend ∧ s.link.combined = 3) →
      s.link.tick s.cfg = .ok s.link ∧ exec .iord0 s = .next { s with delivered := s.delivered ++ [s.port0Value] }

/-- The machine's program receives any byte: it reads the bits least significant first, the byte leaves the queue, and then the
next byte is prepared or, if there is none, the session is `Inactive` and the registered continuation has run exactly once
(45_link_fsm.md R233, R234, R249). With `link_active` = 0 by 56 accesses (95_test_vectors.md V-LK1), with `link_active` = 1 and
code at or above `LOW_END`, as in every `Receive` phase of the driver, by 40, the writes ticking too (V-LK2). With
`PREPARE_FALLTHROUGH` = false the first read makes the Prepare transition alone, and one more read is needed. Bit order, lines,
the shared tick and the port's layout are the spec's decisions (D25, D26, D6). -/
def Obligations.ReceiveExchange : Prop :=
  ∀ (s : State) (b : Byte) (rest : List Byte) (l : Link), ExchangeStart s → s.link.phase = .prepareReceive →
    s.link.queue = b :: rest →
    (let after : Link := { s.link with queue := rest, bits := 0, bitStep := 1, cur := 0 }
     (rest ≠ [] ∧ l = after) ∨ (rest = [] ∧ ({ after with phase := .inactive } : Link).runContinuation s.cfg = .ok l)) →
      (s.link.active = false → s.cfg.prepareFallthrough = true →
        serveAll ((bitsOf b).flatMap receiveBit) s = .next { s with
          delivered := s.delivered ++ (bitsOf b).flatMap receiveReads, link := l }) ∧
      (s.link.active = true → s.cfg.lowEnd ≤ s.cpu.pc → s.cfg.prepareFallthrough = true →
        serveAll ((bitsOf b).flatMap receiveBitTicking) s = .next { s with
          delivered := s.delivered ++ (bitsOf b).flatMap receiveReadsTicking, link := l }) ∧
      (s.cfg.prepareFallthrough = false → exec .iord0 s = .next { s with
        delivered := s.delivered ++ [0x0C]
        link := { s.link with cur := b, queue := rest, phase := .receive, bits := 8, bitStep := 5 } }) ∧
      (s.link.active = false → s.cfg.prepareFallthrough = false →
        serveAll (.iord 0 :: (bitsOf b).flatMap receiveBit) s = .next { s with
          delivered := s.delivered ++ 0x0C :: (bitsOf b).flatMap receiveReads, link := l }) ∧
      (s.link.active = true → s.cfg.lowEnd ≤ s.cpu.pc → s.cfg.prepareFallthrough = false →
        serveAll (.iord 0 :: (bitsOf b).flatMap receiveBitTicking) s = .next { s with
          delivered := s.delivered ++ 0x0C :: (bitsOf b).flatMap receiveReadsTicking, link := l }) ∧
      (s.link.cont = .test → rest = [] → l = { s.link with
        phase := .inactive, queue := [], bits := 0, bitStep := 1, cur := 0, testCount := s.link.testCount + 1 })

/-- The machine's program sends any byte by the 56 accesses of 95_test_vectors.md V-LK6: the byte is captured least significant
bit first and pushed on the queue, the count of bytes to send falls by one, and then the next byte is awaited or, after the
last, the session is `Inactive` and the continuation has run exactly once (45_link_fsm.md R233, R235, R250). With
`PREPARE_FALLTHROUGH` = false the first read with a line pulled makes the Prepare transition alone, and one more read is needed.
Bit order and line codes, the shared tick and the port's layout are the spec's decisions (D26, D25, D6; entry 37). -/
def Obligations.SendExchange : Prop :=
  (∀ s : State, s.link.phase = .prepareSend → s.link.combined ≠ 3 → s.cfg.prepareFallthrough = false →
    exec .iord0 s = .next { s with
      delivered := s.delivered ++ [s.port0Value]
      link := { s.link with phase := .send, bits := 8, bitStep := 5, cur := 0 } }) ∧
  (∀ (s : State) (b : Byte) (l : Link), ExchangeStart s → s.link.phase = .prepareSend → s.link.active = false →
    s.link.toSend ≠ 0 →
    (let after : Link := { s.link with
       queue := s.link.queue ++ [b], bits := 0, bitStep := 1, cur := b, toSend := s.link.toSend - 1 }
     (s.link.toSend ≠ 1 ∧ l = after) ∨
       (s.link.toSend = 1 ∧ ({ after with phase := .inactive } : Link).runContinuation s.cfg = .ok l)) →
      (s.cfg.prepareFallthrough = true → serveAll ((bitsOf b).flatMap sendBit) s = .next { s with
        delivered := s.delivered ++ (bitsOf b).flatMap sendReads, link := l }) ∧
      (s.cfg.prepareFallthrough = false →
        serveAll (.iowr 0 (sendLine (b.getLsbD 0)) :: .iord 0 :: (bitsOf b).flatMap sendBit) s = .next { s with
          delivered := s.delivered ++ (if b.getLsbD 0 then 0x06 else 0x09) :: (bitsOf b).flatMap sendReads
          link := l }) ∧
      (s.link.cont = .test → s.link.toSend = 1 → l = { s.link with
        phase := .inactive, queue := s.link.queue ++ [b], bits := 0, bitStep := 1, cur := b, toSend := 0,
        testCount := s.link.testCount + 1 }))

/-- At the read of port 0 that ends the last byte of a `Receive` phase the next stage has run: after the request the machine
owes 8 bytes, after the data 4, with `link_active` = 0 (46_link_protocol.md R267, R269); after the end of transmission or
the out-of-memory acknowledgement, with a further entry in the file its request is queued at once (R273, R266), and with none
the session is closed (R273, R274). That fewer than 13 bytes left are no entry, and the zero padding of a short one, are the
spec's decision D31 (U9; entry 37). -/
def Obligations.StagesAfterReceive : Prop :=
  ∀ s : State, s.link.phase = .receive → s.link.bitStep = 1 → s.link.bits = 1 → s.link.queue = [] →
    (s.link.cont = .receiveReqAck → ∃ t, exec .iord0 s = .next t ∧ t.link = { s.link with
      bits := 0, active := false, queue := [], toSend := 8, phase := .prepareSend, cont := .sendVariableData }) ∧
    (s.link.cont = .receiveDataAck → ∃ t, exec .iord0 s = .next t ∧ t.link = { s.link with
      bits := 0, active := false, queue := [], toSend := 4, phase := .prepareSend, cont := .endTransmission }) ∧
    (∀ f, s.link.cont = .finalize → s.link.file = some f → f.pos + 13 ≤ f.bytes.length →
      ∃ t, exec .iord0 s = .next t ∧ t.link = requestNextEntry s.cfg { s.link with bits := 0 } f) ∧
    (s.link.cont = .finalize → (∀ f, s.link.file = some f → f.bytes.length < f.pos + 13) →
      ∃ t, exec .iord0 s = .next t ∧ t.link = { s.link with
        bits := 0, active := false, queue := [], phase := .inactive, cont := .none, file := none })

/-- At the read of port 0 that ends the last byte of a `Send` phase the next stage has run (46_link_protocol.md R268, R270,
R271, R272): of the eight acknowledgement bytes only the sixth is looked at; the sentinel closes the file and asks for 3
bytes, any other byte queues the data command; after 4 bytes the end of transmission is queued, after 3 the
out-of-memory acknowledgement. The packets' bytes, the sentinel and the index from which the data are summed are parameters of the
spec's decision D30 (30_encoding.md R118 to R120). -/
def Obligations.StagesAfterSend : Prop :=
  ∀ (s : State) (a0 a1 a2 a3 a4 b a6 : Byte), s.link.phase = .send → s.link.bitStep = 1 → s.link.bits = 1 →
    s.link.toSend = 1 →
      (s.link.cont = .sendVariableData → s.link.queue = [a0, a1, a2, a3, a4, b, a6] →
        (b = s.cfg.linkOomSentinel → ∃ t, exec .iord0 s = .next t ∧ t.link = { s.link with
          bits := 0, active := false, queue := [], toSend := 3, phase := .prepareSend, cont := .endOutOfMemory,
          file := none }) ∧
        (b ≠ s.cfg.linkOomSentinel → ∃ t, exec .iord0 s = .next t ∧ t.link = { s.link with
          bits := 0, active := true, toSend := 0, phase := .prepareReceive, cont := .receiveDataAck,
          queue := s.cfg.linkData.toList ++ s.link.var ++
            [BitVec.ofNat 8 ((((s.link.var.drop s.cfg.linkDataCkStart).map BitVec.toNat).sum) % 65536),
              BitVec.ofNat 8 ((((s.link.var.drop s.cfg.linkDataCkStart).map BitVec.toNat).sum) % 65536 / 256)] })) ∧
      (s.link.cont = .endTransmission → ∃ t, exec .iord0 s = .next t ∧ t.link = { s.link with
        bits := 0, active := true, toSend := 0, phase := .prepareReceive, cont := .finalize,
        queue := s.cfg.linkEot.toList }) ∧
      (s.link.cont = .endOutOfMemory → ∃ t, exec .iord0 s = .next t ∧ t.link = { s.link with
        bits := 0, active := true, toSend := 0, phase := .prepareReceive, cont := .finalize,
        queue := s.cfg.linkOomAck.toList })

/-! ## The other ports -/

/-- A read of port 1 clears `lag_flag`, calls the poll hook once and then delivers the matrix value for the current mask; a
host that changes the buttons inside the hook "is seen at once" (42_port_dispatch.md R163, decision D24; how the change is
given to the model is entry 13). Nothing else changes. -/
def Obligations.KeyboardRead : Prop :=
  ∀ s : State,
    (s.hooks.poll = false ∨ s.pollFeed = [] → exec .iord1 s = .next { s with
      ctr := { s.ctr with lagFlag := false }
      hookLog := if s.hooks.poll then s.hookLog ++ [.poll] else s.hookLog
      delivered := s.delivered ++ [mux s s.kbd.keyMask] }) ∧
    (∀ names rest, s.hooks.poll = true → s.pollFeed = names :: rest → exec .iord1 s = .next { s with
      ctr := { s.ctr with lagFlag := false }
      hookLog := s.hookLog ++ [.poll]
      pollFeed := rest
      buttons := (buttonTable s.cfg).filter fun n => names.contains n
      delivered := s.delivered ++ [mux (s.holdButtons names) s.kbd.keyMask] })

/-- `key_mask <- v; lag_flag <- 0`, and nothing else: the hook is not called by a write (42_port_dispatch.md R164). That bit 7 of
`key_mask` is stored, as R164 writes it and against the "not stored" of 93_implementation_defined.md U13, is the model's choice
(entry 45). -/
def Obligations.KeyboardWrite : Prop :=
  ∀ (s : State) (v : Byte), exec (.iowr1 v) s = .next { s with
    kbd := { s.kbd with keyMask := v }
    ctr := { s.ctr with lagFlag := false } }

/-- Pressed buttons toggle: for any set of them and any mask, bit `b` reads 0 exactly if an odd number of pressed buttons of the
selected groups map to it, so two on one bit cancel, and a button of a deselected group has no effect (44_input_mux.md R221 (c),
(e), 30_encoding.md R105). For every accepted `KEYMAP`: if one button is pressed, the mask that enables only its group gives a
byte with exactly its bit cleared; with no button pressed, or with no group enabled, the byte is all ones (R221, R225). Group
numbering and the constraints on the table are the spec's decision D23; what else is accepted of a table is the model's (entries
38, 46). -/
def Obligations.MatrixClearsExactlyThePressedBit : Prop :=
  (∀ (s : State) (m : Byte) (b : Nat), b < 8 →
    ((mux s m).getLsbD b = false ↔ pressedOnBit s m b % 2 = 1)) ∧
  (∀ (s : State) (m : Byte) (names : List Line),
    (∀ g group e, g < 7 → m.getLsbD g = false → s.cfg.keymap[g]? = some group → e ∈ group →
      (e.1 ∈ names ↔ s.btn e.1 = true)) →
    mux { s with buttons := names } m = mux s m) ∧
  (∀ (s : State) (g : Nat) (group : List (Line × Nat)) (name : Line) (b : Nat), keymapOk s.cfg.keymap = true →
    s.cfg.keymap[g]? = some group → (name, b) ∈ group → (∀ n, s.btn n = true ↔ n = name) →
      mux s (0xFF ^^^ (1#8 <<< g)) = 0xFF ^^^ (1#8 <<< b)) ∧
  (∀ (s : State) (m : Byte), s.buttons = [] → mux s m = 0xFF) ∧
  (∀ (s : State) (m : Byte), (∀ g, g < 7 → m.getLsbD g = true) → mux s m = 0xFF)

/-- A read of a port of the machine that is not 0, 1, 3, 4 or 17 returns 0xFF and changes nothing; a write to a port that is not 0, 1, 2, 3,
16 or 17 changes nothing; no hook is called. Ports 2 and 16 are among those read, port 4 among those written
(42_port_dispatch.md R175, R176). That reads of the write-only ports 2 and 16 take the default is the spec's decision D12 (R165,
R172; entry 37). -/
def Obligations.OtherPorts : Prop :=
  ∀ (s : State) (v : Byte),
    (∀ p : Nat, p < 2 ^ s.cfg.portBits → p ≠ 0 → p ≠ 1 → p ≠ 3 → p ≠ 4 → p ≠ 17 →
      serve (.iord p) s = .next { s with delivered := s.delivered ++ [0xFF] }) ∧
    exec .iord2 s = .next { s with delivered := s.delivered ++ [0xFF] } ∧
    exec .iord16 s = .next { s with delivered := s.delivered ++ [0xFF] } ∧
    (∀ p : Word, exec (.iordOther p) s = .next { s with delivered := s.delivered ++ [0xFF] }) ∧
    (∀ p : Nat, p < 2 ^ s.cfg.portBits → p ≠ 0 → p ≠ 1 → p ≠ 2 → p ≠ 3 → p ≠ 16 → p ≠ 17 →
      serve (.iowr p v) s = .next s) ∧
    exec (.iowr4 v) s = .next s ∧
    (∀ p : Word, exec (.iowrOther p v) s = .next s)

/-- Port 2 loads `bank_low` from the low `BANK_LOW_BITS` bits, port 3 loads `mask_on` from bit 0, port 4 reads its constant; a
read of port 3 gives bit 3 while ON is up, bit 1 while the link is not active, bit 0 `mask_on` while ON is down, with no hook and no lag
flag; nothing else changes (42_port_dispatch.md R166 to R169; the layouts are the spec's decisions D4, D10, D11). -/
def Obligations.MappingAndStatusPorts : Prop :=
  ∀ (s : State) (v : Byte),
    exec (.iowr2 v) s = .next { s with map := { s.map with bankLow := v.toNat % 2 ^ s.cfg.bankLowBits } } ∧
    exec (.iowr3 v) s = .next { s with kbd := { s.kbd with maskOn := decide (v.toNat % 2 = 1) } } ∧
    exec .iord4 s = .next { s with delivered := s.delivered ++ [s.cfg.port4Const] } ∧
    (s.cfg.stOnUp = 0x08 → s.cfg.stLinkIdle = 0x02 → exec .iord3 s = .next { s with
      delivered := s.delivered ++
        [BitVec.ofNat 8
          ((if s.btn onName then (if s.kbd.maskOn then 1 else 0) else 8) + (if s.link.active then 0 else 2))] })

/-! ## The display -/

/-- `DISP_MODE` and `DISP_SETY`, as commands and as bytes written to port 16: the mode register alone, and the row with
`cursor_moved` (43_display.md R191, R194). -/
def Obligations.ModeAndRowCommands : Prop :=
  ∀ s : State,
    (∀ m, exec (.dispMode m) s = .next { s with disp := { s.disp with mode := m } }) ∧
    (∀ c : Byte, c.toNat ≤ 1 →
      exec (.iowr16 c) s = .next { s with disp := { s.disp with mode := BitVec.ofNat 1 c.toNat } }) ∧
    (∀ r, exec (.dispSety r) s = .next { s with disp := { s.disp with y := r, moved := true } }) ∧
    (∀ c : Byte, 0x80 ≤ c.toNat → c.toNat ≤ 0xBF →
      exec (.iowr16 c) s = .next { s with disp := { s.disp with y := BitVec.ofNat 6 (c.toNat - 0x80), moved := true } })

/-- `DISP_DIR` and `DISP_SETX`, as commands and as bytes: the direction code value - 4, and the column from bits 4:0,
unmasked (the spec's decision D17), with `cursor_moved` (43_display.md R192, R193). -/
def Obligations.DirectionAndColumnCommands : Prop :=
  ∀ s : State,
    (∀ d, exec (.dispDir d) s = .next { s with disp := { s.disp with dir := d } }) ∧
    (∀ c : Byte, 4 ≤ c.toNat → c.toNat ≤ 7 →
      exec (.iowr16 c) s = .next { s with disp := { s.disp with dir := BitVec.ofNat 2 (c.toNat - 4) } }) ∧
    (∀ u x, exec (.dispSetx u x) s = .next { s with disp := { s.disp with x := x, moved := true } }) ∧
    (∀ c : Byte, 0x40 ≤ c.toNat → c.toNat ≤ 0x7F →
      exec (.iowr16 c) s = .next { s with disp := { s.disp with x := BitVec.ofNat 5 (c.toNat % 32), moved := true } })

/-- The accepted no-ops: contrast, the values 2 and 3, and the scroll range 8 to 63 change nothing, as commands and as bytes
(43_display.md R195, R196, R197). -/
def Obligations.DisplayNoOps : Prop :=
  ∀ s : State,
    (∀ n, exec (.dispNop23 n) s = .next s) ∧ (∀ k, exec (.dispContrast k) s = .next s) ∧
    (∀ x, exec (.dispScroll8 x) s = .next s) ∧ (∀ x, exec (.dispScroll16 x) s = .next s) ∧
    (∀ x, exec (.dispScroll32 x) s = .next s) ∧
    (∀ c : Byte, c.toNat = 2 ∨ c.toNat = 3 ∨ (8 ≤ c.toNat ∧ c.toNat ≤ 63) ∨ 0xC0 ≤ c.toNat →
      exec (.iowr16 c) s = .next s)

/-- The auto-move step on numbers, with `X_MASK` = 0x0F: one step along one axis modulo 16 or 64, no carry into the other,
and a column of 16 or more brought into range whatever the direction (43_display.md R198; decisions D15, D16). -/
def Obligations.AutoMoveArithmetic : Prop :=
  ∀ d : Display,
    let m := d.autoMove 0x0F
    m.mode = d.mode ∧ m.dir = d.dir ∧ m.moved = d.moved ∧
    m.x.toNat = (if d.dir = 2 then (d.x.toNat + 31) % 16 else if d.dir = 3 then (d.x.toNat + 1) % 16 else d.x.toNat % 16) ∧
    m.y.toNat = (if d.dir = 0 then (d.y.toNat + 63) % 64 else if d.dir = 1 then (d.y.toNat + 1) % 64 else d.y.toNat)

/-- The one-shot stale read: after a position command the next data read returns 0x00, consumes the flag, touches no VRAM,
and moves the cursor if `STALE_READ_ADVANCES` (43_display.md R199; which of the two is the spec's decision D18). -/
def Obligations.StaleRead : Prop :=
  ∀ s : State, s.disp.moved = true →
    (s.cfg.staleReadAdvances = true → exec .iord17 s = .next { s with
      disp := { s.disp.autoMove s.cfg.xMask with moved := false }, delivered := s.delivered ++ [0x00] }) ∧
    (s.cfg.staleReadAdvances = false → exec .iord17 s = .next { s with
      disp := { s.disp with moved := false }, delivered := s.delivered ++ [0x00] })

/-- A mode-1 access within VRAM reads or writes the byte at `row*12 + col`, moves the cursor and changes nothing else; a
write neither tests nor clears `cursor_moved` (43_display.md R200, R202; decision D22). -/
def Obligations.ByteModeAccess : Prop :=
  ∀ (s : State) (v : Byte), s.disp.mode = 1 → s.disp.y.toNat * 12 + s.disp.x.toNat < 768 →
    (s.disp.moved = false → exec .iord17 s = .next { s with
      disp := s.disp.autoMove s.cfg.xMask
      delivered := s.delivered ++ [s.vramByte (s.disp.y.toNat * 12 + s.disp.x.toNat)] }) ∧
    exec (.iowr17 v) s = .next { s with
      disp := s.disp.autoMove s.cfg.xMask
      vram := Memory.write vramFill s.vram (s.disp.y.toNat * 12 + s.disp.x.toNat) v }

/-- A mode-0 read within VRAM delivers the six pixels from column `6 * disp_x` on, leftmost in bit 5 and bits 7:6 zero, and
moves the cursor; nothing else changes (43_display.md R201). A column of 16 or more lies in the next row's bytes. The formula is
the spec's decision D19. -/
def Obligations.PackedModeRead : Prop :=
  ∀ s : State, s.disp.mode = 0 → s.disp.moved = false → s.disp.offset0 < 768 →
    ∃ v : Byte, exec .iord17 s = .next { s with
        disp := s.disp.autoMove s.cfg.xMask, delivered := s.delivered ++ [v] } ∧
      v.toNat < 64 ∧ ∀ k, k < 6 → v.getLsbD (5 - k) = pixelBit s s.disp.y.toNat (6 * s.disp.x.toNat + k)

/-- A mode-0 write always completes and never faults; within VRAM it sets the six pixels of its cell to bits 5:0 of the
value, every other pixel keeps its bit, and beyond `VRAM` it writes nothing; the cursor moves and nothing else changes
(43_display.md R203). The cell's pixels are counted on from the start of its row, 96 to a row, so a column of 16 or more lies in
the next row. The formula is the spec's decision D20. -/
def Obligations.PackedModeWrite : Prop :=
  ∀ (s : State) (v : Byte), s.disp.mode = 0 → InRange s →
    ∃ vram, exec (.iowr17 v) s = .next { s with disp := s.disp.autoMove s.cfg.xMask, vram := vram } ∧
      (s.disp.offset0 < 768 → ∀ row col, row < 64 → col < 96 →
        let first := 96 * s.disp.y.toNat + 6 * s.disp.x.toNat
        let here := 96 * row + col
        pixelBit { s with vram := vram } row col =
          (if first ≤ here ∧ here < first + 6 then v.getLsbD (5 - (here - first)) else pixelBit s row col)) ∧
      (∀ off, off ≠ s.disp.offset0 → off ≠ s.disp.offset0 + 1 →
        Memory.read vramFill vram off = Memory.read vramFill s.vram off) ∧
      (768 ≤ s.disp.offset0 → vram = s.vram) ∧ (768 ≤ s.disp.offset0 ↔ s.disp.y.toNat = 63 ∧ 16 ≤ s.disp.x.toNat)

/-- A display data access beyond VRAM (43_display.md R204, 60_exceptions.md R333; both treatments are the spec's decision D21).
With `VRAM_OOB` = fault it stops at `fault(VramRange)`: in mode 1 exactly at row 63 from column 12 on and at row 62 from column
24 on, in mode 0 exactly a read at row 63 from column 16 on, and never the stale read. With `VRAM_OOB` = sentinel it returns
0xFF (0x3F in mode 0) or drops the write, the cursor still moves, and nothing else changes. -/
def Obligations.AccessesBeyondVram : Prop :=
  ∀ (s : State) (v : Byte),
    (exec .iord17 s = .fault .vramRange ↔
      s.cfg.vramOob = .stop ∧ s.disp.moved = false ∧
        ((s.disp.mode = 1 ∧ ((s.disp.y = 63 ∧ 12 ≤ s.disp.x.toNat) ∨ (s.disp.y = 62 ∧ 24 ≤ s.disp.x.toNat))) ∨
          (s.disp.mode = 0 ∧ s.disp.y = 63 ∧ 16 ≤ s.disp.x.toNat))) ∧
    (exec (.iowr17 v) s = .fault .vramRange ↔
      s.cfg.vramOob = .stop ∧ s.disp.mode = 1 ∧
        ((s.disp.y = 63 ∧ 12 ≤ s.disp.x.toNat) ∨ (s.disp.y = 62 ∧ 24 ≤ s.disp.x.toNat))) ∧
    (s.cfg.vramOob = .sentinel →
      (s.disp.moved = false → s.disp.mode = 1 → 768 ≤ s.disp.y.toNat * 12 + s.disp.x.toNat →
        exec .iord17 s = .next { s with
          disp := s.disp.autoMove s.cfg.xMask, delivered := s.delivered ++ [0xFF] }) ∧
      (s.disp.moved = false → s.disp.mode = 0 → s.disp.y = 63 → 16 ≤ s.disp.x.toNat →
        exec .iord17 s = .next { s with
          disp := s.disp.autoMove s.cfg.xMask, delivered := s.delivered ++ [0x3F] }) ∧
      (s.disp.mode = 1 → 768 ≤ s.disp.y.toNat * 12 + s.disp.x.toNat →
        exec (.iowr17 v) s = .next { s with disp := s.disp.autoMove s.cfg.xMask }))

/-- A cell written and read back: in mode 1 the byte, in mode 0 (column at most 15) its low six bits, once the cursor is put
back on the cell (43_display.md R205 (d), (e)). -/
def Obligations.CellReadBack : Prop :=
  ∀ (s t : State) (v : Byte), InRange s → exec (.iowr17 v) s = .next t →
    (s.disp.mode = 1 → s.disp.offset1 < 768 →
      ∃ u, exec .iord17 (t.withDisp { s.disp with moved := false }) = .next u ∧ u.delivered = t.delivered ++ [v]) ∧
    (s.disp.mode = 0 → s.disp.x.toNat ≤ 15 →
      ∃ u, exec .iord17 (t.withDisp { s.disp with moved := false }) = .next u ∧
        u.delivered = t.delivered ++ [v &&& 0x3F])

/-! ## Frames, the interrupt, the counters -/

/-- A frame in which the engine makes no transaction (47_frame_scheduler.md R291): ON is sampled, the interrupt line is
asserted, the frame counts, it is a lag frame, and it is over. `IRQ_ACK` releases the line (40_cpu_sequencer.md R134; that the
callback is where it is released is the spec's decision D33). Nothing else changes. -/
def Obligations.SilentFrameAndAcknowledge : Prop :=
  ∀ s : State,
    (engineRun s.engine s.cpu s.cfg.cyclesPerBurst = .done → 0 < s.cfg.burstsPerFrame →
      exec .frameAdvance s = .next { s with
        kbd := { s.kbd with onLatch := s.btn onName }
        irqLine := true
        inFrame := false
        ctr := { frame := s.ctr.frame + 1, lag := s.ctr.lag + 1, lagFlag := true, isLag := true } }) ∧
    exec .irqAck s = .next { s with irqLine := false }

/-- The lag law, whatever the engine does in the frame (47_frame_scheduler.md R292): the frame counts once, it is lagged
exactly if no transaction of it touches port 1, and the interrupt line is 1 at its end. -/
def Obligations.LagLaw : Prop :=
  ∀ s t : State, exec .frameAdvance s = .next t →
    t.ctr.frame = s.ctr.frame + 1 ∧ t.ctr.isLag = !frameTouchesPort1 s ∧
    t.ctr.lag = s.ctr.lag + (if frameTouchesPort1 s then 0 else 1) ∧
    (0 < s.cfg.burstsPerFrame → t.irqLine = true)

/-- `GET_COUNTER` returns and `SET_COUNTER` writes the counter named, for any natural, and no other state is touched
(47_frame_scheduler.md R295). -/
def Obligations.CounterAccess : Prop :=
  ∀ (s : State) (n : Nat),
    exec (.getCounter .frame) s = .next { s with reply := .count s.ctr.frame } ∧
    exec (.getCounter .lag) s = .next { s with reply := .count s.ctr.lag } ∧
    exec (.setCounter .frame n) s = .next { s with ctr := { s.ctr with frame := n } } ∧
    exec (.setCounter .lag n) s = .next { s with ctr := { s.ctr with lag := n } }

/-! ## The host -/

/-- `HARD_RESET`: RAM all ones, the mapping, display, keyboard and link registers zero, the engine reset with `START_PC`
loaded, the interrupt lines released; VRAM, the counters and the lag flags keep their values (70_reset_and_hazards.md
R350, R352; the exact coverage is the spec's decision D35, the harness's counter entry 28). -/
def Obligations.HardReset : Prop :=
  ∀ s : State,
    (∃ t, exec .hardReset s = .next t ∧ (∀ i, t.ramByte i = 0xFF) ∧ t = { s with
      ram := t.ram
      map := { bankLow := 0, bankHigh := 0 }
      disp := { mode := 0, dir := 0, x := 0, y := 0, moved := false }
      kbd := { keyMask := 0, maskOn := false, onLatch := false }
      link := { lineOut := 0, lineIn := 0, active := false, phase := .inactive, queue := [], bits := 0, bitStep := 0,
                cur := 0, toSend := 0, cont := .none, file := none, hdr := [], var := [],
                testCount := s.link.testCount }
      cpu := { resetCpu s.engine s.cpu with pc := s.startPc }
      irqLine := false
      nmiLine := false })

/-- `CONSTRUCT` refuses an image of another length than `ROM_SIZE` and parameters that are not accepted; otherwise the
parameters, the image, `START_PC`, the hooks and the engine are taken, VRAM and the counters are zeroed, no frame is in progress,
and a hard reset follows (70_reset_and_hazards.md R351). Of what is refused, the map and the burst count are 00_scope.md R10's,
`KEYMAP` is 44_input_mux.md R224's (entry 29), and the image's length is the spec's decision D4 (U5; entry 19). Zeroing VRAM and
the counters is its decision D35. The model's choices, not R351's: of a `START_PC` wider than `ADDR_BITS` the low bits are taken
(entry 27: a machine may refuse it), the state the new engine's reset starts from (entry 28), and that parameters are accepted
exactly as the third clause says, whatever R10 and R224 leave open: a table that lists ON (entry 38) or a name twice in a group
(refused, entry 46), any `TEXT_KEYS` and any order of a text (entries 39, 50), any `BANK_HIGH_SRC_BIT` (entry 44). -/
def Obligations.Construct : Prop :=
  ∀ (s : State) (args : ConstructArgs),
    let p := args.params
    let romSize := 2 ^ (p.bankLowBits + 1) * (p.ramBase - p.lowEnd)
    (¬ (paramsOk p = true ∧ args.rom.size = romSize) → exec (.construct args) s = .refused .badConstruction) ∧
    (paramsOk p = true → args.rom.size = romSize →
      exec (.construct args) s = exec .hardReset { s with
        cfg := p, rom := imageMemory args.rom, startPc := args.startPc % 2 ^ p.addrBits, hooks := args.hooks,
        engine := args.engine, cpu := { pc := 0, block := [] }, vram := [],
        ctr := { frame := 0, lag := 0, lagFlag := false, isLag := false }, inFrame := false, disposed := false } ∧
      completes (exec (.construct args) s)) ∧
    (paramsOk p = true ↔
      0 < p.lowEnd ∧ p.lowEnd < p.ramBase ∧ p.ramBase ≤ 2 ^ p.addrBits ∧ p.lowEnd = p.ramBase - p.lowEnd ∧
      (∃ k, p.ramSize = 2 ^ k) ∧ p.ramBase + p.ramSize ≤ 2 ^ p.addrBits ∧ keymapOk p.keymap = true ∧
      1 ≤ p.burstsPerFrame) ∧
    (∀ i, i < args.rom.size →
      Memory.read romFill (imageMemory args.rom) i = Memory.read romFill args.rom.cells i)

/-- The checks of `SEND_FILE` in their order, the first failure deciding the kind, for an idle link with no file open
(46_link_protocol.md R263, R264); on a failure nothing changes but the error returned (R265). The offsets are the
parameters of the spec's decision D29, by which a file too short to hold a field fails with that field's kind: BadLength for the
size, BadChecksum for the checksum (R264 writes the first at the default offsets only; for others it is deduced, entry 35). -/
def Obligations.SendFileValidation : Prop :=
  ∀ (s : State) (bytes : List Byte), s.link.phase = .inactive → s.link.file = none →
    let sig := bytes.take 11 = s.cfg.linkMagic.toList
    let long := s.cfg.linkDataStart ≤ bytes.length ∧ s.cfg.linkSizeOffset + 2 ≤ bytes.length
    let size := le16At bytes s.cfg.linkSizeOffset
    let fits := bytes.length = size + s.cfg.linkOverhead
    let sum := s.cfg.linkDataStart + size + 2 ≤ bytes.length ∧ (((bytes.drop s.cfg.linkDataStart).take size).map BitVec.toNat).sum % 65536 =
      le16At bytes (s.cfg.linkDataStart + size)
    (¬ sig → exec (.sendFile bytes) s = .next { s with reply := .formatError .badSignature }) ∧
    (sig → ¬ (long ∧ fits) → exec (.sendFile bytes) s = .next { s with reply := .formatError .badLength }) ∧
    (sig → long → fits → ¬ sum → exec (.sendFile bytes) s = .next { s with reply := .formatError .badChecksum }) ∧
    (sig → long → fits → sum → ∃ l, exec (.sendFile bytes) s = .next { s with link := l, reply := .accepted } ∧
      l.lineOut = s.link.lineOut ∧ l.lineIn = s.link.lineIn)

/-- A `SEND_FILE` that is accepted and holds an entry reads its header and its variable part, zero-padded where the file is
short, leaves the file open after them, queues the 17-byte request and marks the link active; one that holds none ends at once
(46_link_protocol.md R263, R266, R274). That fewer than 13 bytes are no entry, and the padding, are the spec's decision D31 (U9);
the refusal during a session is the model's reading of U7 (entry 18). -/
def Obligations.SendFileStartsTheRequest : Prop :=
  ∀ (s : State) (bytes : List Byte),
    (s.link.phase ≠ .inactive ∨ s.link.file ≠ none → exec (.sendFile bytes) s = .refused .sessionOpen) ∧
    (s.link.phase = .inactive → s.link.file = none → validateContainer s.cfg bytes = none →
      (bytes.length < s.cfg.linkDataStart + 13 → exec (.sendFile bytes) s = .next { s with reply := .accepted }) ∧
      (s.cfg.linkDataStart + 13 ≤ bytes.length → exec (.sendFile bytes) s = .next { s with
        link := requestNextEntry s.cfg s.link { bytes := bytes, pos := s.cfg.linkDataStart }
        reply := .accepted }))

/-- A `FormatError` is raised by `SEND_FILE` only, it leaves the state as it was, and the file is closed before and after
(60_exceptions.md R321): whatever the last reply was, a new `FormatError(k)` is the answer to a container whose validation gives
`k`. -/
def Obligations.FormatErrorsComeFromSendFile : Prop :=
  ∀ (i : Instr) (s t : State) (k : FormatKind), exec i s = .next t → s.reply ≠ .formatError k →
    t.reply = .formatError k →
    ∃ bytes, i = .sendFile bytes ∧ validateContainer s.cfg bytes = some k ∧ t = { s with reply := .formatError k } ∧
      s.link.file = none ∧ t.link.file = none

/-- The round trip law (48_host_interface.md R305): a text saved from a state and loaded into any state of an instance with the
same image, `START_PC`, parameters and engine restores every element of R301, emits no notice, and touches nothing else; and where
the inputs are the same too, every sequence of operations then ends alike from both (40_cpu_sequencer.md R133). The engine's
serializer meets the law of R139 and R303. A snapshot known to be of an instance with another image, `START_PC`,
parameters or engine is refused (70_reset_and_hazards.md R367, U15; that it is known is the model's, entry 36). A state that
holds the harness's tag `Test` saves an ordinal that no load takes (46_link_protocol.md R261, entry 26), so the law is one about
the other states. The premise on keys, markers and order is the model's text syntax (entry 21, the spec's decision D36); that the harness's
counter is kept is entry 26; that an engine's block may hold a line that is the end marker is entry 48. -/
def Obligations.SaveLoadRoundTrip : Prop :=
  ∀ s s' : State, InRange s → TextNamesOk s.cfg → EngineTextOk s.engine s.cfg → s.link.cont ≠ .test →
    let here (u : State) : Origin := { cfg := u.cfg, startPc := u.startPc, rom := u.rom, engine := u.engine }
    let saved : Snapshot := { text := saveLines s, origin := some (here s) }
    let t : State := { s' with
      cpu := s.cpu, irqLine := s.irqLine, nmiLine := s.nmiLine, ram := s.ram, vram := s.vram, map := s.map,
      disp := s.disp, kbd := s.kbd, link := { s.link with testCount := s'.link.testCount }, ctr := s.ctr,
      reply := .notices [] }
    exec .saveText s = .next { s with reply := .snapshot saved } ∧
    (here s' = here s → exec (.loadText saved) s' = .next t ∧ exec (.loadText { saved with origin := none }) s' = .next t) ∧
    (here s' ≠ here s → exec (.loadText saved) s' = .refused .otherInstance) ∧
    (here s' = here s → s'.buttons = s.buttons → s'.pollFeed = s.pollFeed →
      s'.hooks.poll = s.hooks.poll → s'.inFrame = s.inFrame → s'.disposed = s.disposed → ∀ ops, SameEnd s t ops)

/-- A text that names one field, any of the 33, changes that field alone: "loading does not reset anything first"
(48_host_interface.md R304). A value that parses and fits is the field's new value (the snapshot of the state is the old one with
that entry replaced), and any other is refused whole (U12). Of the three fields of `xfer_file`, which are the model's, the effect
is entry 43's. Written out too, by the model's order of `TEXT_KEYS` (entry 21): the display column, RAM and VRAM (a buffer of
another length is refused, whatever lines follow it), `irq_line`, `nmi_line` (0 always, 60_exceptions.md R335, so 1 is refused:
entry 32), `lk_cont` (its seven tags; no ordinal makes the harness's, 46_link_protocol.md R261). The CPU block is what the engine
loads, or the text is refused where it rejects the block (U12); a text without its end marker is refused (U12). The model's
choices: refusing a number too large for its field, and refusing a text without its start marker (entry 20); any length of
`xfer_hdr` and any position (entry 42); which spellings of a value parse (entry 47); that a line of the CPU block may be the end
marker (entry 48). -/
def Obligations.LoadTextOfOneField : Prop :=
  ∀ (s : State) (key : Line) (origin : Option Origin), TextNamesOk s.cfg → spaceChar ∉ s.engine.openMark →
    origin = none ∨ origin = some { cfg := s.cfg, startPc := s.startPc, rom := s.rom, engine := s.engine } →
    let load (lines : Text) : Result := exec (.loadText { text := lines, origin := origin }) s
    let one (value : Line) : Result := load [startMarker s.cfg, key ++ spaceChar :: value, endMarker s.cfg]
    (∀ i type, s.cfg.textKeys[i]? = some key → (snapTypes s.cfg)[i]? = some type →
      (∀ v, SnapVal.fits type v = true → ∃ t, one (printVal v) = .next t ∧
        t = { s with
          irqLine := t.irqLine, nmiLine := t.nmiLine, ram := t.ram, vram := t.vram, map := t.map, disp := t.disp,
          kbd := t.kbd, link := { t.link with testCount := s.link.testCount }, ctr := t.ctr, reply := .notices [] } ∧
        (i ≠ 2 → t.ram = s.ram) ∧ (i ≠ 3 → t.vram = s.vram) ∧
        (i ≠ 24 → i ≠ 25 → i ≠ 26 → t.snapshot = s.snapshot.set i v) ∧
        (i = 24 → t = { s with reply := .notices [], link := { s.link with
          file := if v = .flag true then some { bytes := s.link.fileBytes, pos := s.link.filePos } else none } }) ∧
        (i = 25 → ∀ bs, v = .buf bs → t = { s with reply := .notices [], link := { s.link with
          file := s.link.file.map fun f => { f with bytes := bs } } }) ∧
        (i = 26 → ∀ n, v = .num n → t = { s with reply := .notices [], link := { s.link with
          file := s.link.file.map fun f => { f with pos := n } } })) ∧
      (∀ value, parseVal type value = none → one value = .refused .badSnapshot)) ∧
    (s.cfg.textKeys[8]? = some key → ∀ n,
      (n < 32 → one (printDec n) =
        .next { s with disp := { s.disp with x := BitVec.ofNat 5 n }, reply := .notices [] }) ∧
      (32 ≤ n → one (printDec n) = .refused .badSnapshot)) ∧
    (s.cfg.textKeys[2]? = some key → ∀ bs,
      (bs.length = s.cfg.ramSize → one (printHex bs) =
        .next { s with ram := Memory.ofBytesFrom ramFill 0 bs, reply := .notices [] }) ∧
      (bs.length ≠ s.cfg.ramSize → ∀ rest,
        load (startMarker s.cfg :: (key ++ spaceChar :: printHex bs) :: rest) = .refused .badSnapshot)) ∧
    (s.cfg.textKeys[3]? = some key → ∀ bs,
      (bs.length = 768 → one (printHex bs) =
        .next { s with vram := Memory.ofBytesFrom vramFill 0 bs, reply := .notices [] }) ∧
      (bs.length ≠ 768 → ∀ rest,
        load (startMarker s.cfg :: (key ++ spaceChar :: printHex bs) :: rest) = .refused .badSnapshot)) ∧
    (s.cfg.textKeys[0]? = some key →
      (∀ b, one (if b then asc "True" else asc "False") = .next { s with irqLine := b, reply := .notices [] }) ∧
      (∀ value, value ≠ asc "True" → value ≠ asc "False" → one value = .refused .badSnapshot)) ∧
    (s.cfg.textKeys[1]? = some key →
      one (asc "False") = .next { s with nmiLine := false, reply := .notices [] } ∧
      one (asc "True") = .refused .badSnapshot) ∧
    (s.cfg.textKeys[23]? = some key → ∀ n,
      (n < 7 → ∃ c, one (printDec n) = .next { s with link := { s.link with cont := c }, reply := .notices [] } ∧
        contOrdinal c = n) ∧
      (7 ≤ n → one (printDec n) = .refused .badSnapshot)) ∧
    (∀ block, s.engine.openMark ≠ endMarker s.cfg → s.engine.closeMark ∉ block →
      let result := load (startMarker s.cfg :: s.engine.openMark :: block ++ [s.engine.closeMark, endMarker s.cfg])
      (∀ c, loadCpu s.cfg s.engine block = some c → result = .next { s with cpu := c, reply := .notices [] }) ∧
      (loadCpu s.cfg s.engine block = none → result = .refused .badSnapshot)) ∧
    (∀ lines, endMarker s.cfg ∉ lines → load (startMarker s.cfg :: lines) = .refused .badSnapshot) ∧
    (∀ lines, startMarker s.cfg ∉ lines → load lines = .refused .badSnapshot)

/-- A line with a key that is not in `TEXT_KEYS`, put anywhere a field line may stand, after the start marker, among the fields,
after the CPU block or before the end marker, is skipped with one notice, in its place among the notices, and the rest of the
text loads as it would have (48_host_interface.md R304, 60_exceptions.md R323). That a CPU block goes on to its closing mark,
past a line that is the end marker, is the model's choice (entry 48). -/
def Obligations.UnknownKeysAreSkipped : Prop :=
  ∀ (s t : State) (key value : Line) (front rest : Text) (origin : Option Origin) (ns : List Line), spaceChar ∉ key →
    key ∉ s.cfg.textKeys → spaceChar ∉ endMarker s.cfg → spaceChar ∉ s.engine.openMark →
    betweenFields s.cfg s.engine false front = true →
    let load (lines : Text) : Result := exec (.loadText { text := startMarker s.cfg :: lines, origin := origin }) s
    load (front ++ rest) = .next t → t.reply = .notices ns →
      ∃ u first second, load (front ++ [endMarker s.cfg]) = .next u ∧ u.reply = .notices first ∧ ns = first ++ second ∧
        load (front ++ (key ++ spaceChar :: value) :: rest) = .next { t with reply := .notices (first ++ key :: second) }

/-- The binary form is empty: saving returns the empty sequence and writes nothing, loading changes nothing whatever the
bytes (48_host_interface.md R306). -/
def Obligations.BinaryFormIsEmpty : Prop :=
  ∀ (s : State) (bytes : List Byte),
    exec .saveBinary s = .next { s with reply := .bytes [] } ∧ exec (.loadBinary bytes) s = .next s

/-- The domain accessors apply the mask before indexing RAM, change one RAM byte or none, and call no hook
(48_host_interface.md R308, R309); under an accepted map the masked address is the address modulo `RAM_SIZE`. -/
def Obligations.DomainAccess : Prop :=
  ∀ (s : State) (a : Nat) (v : Byte),
    exec (.domainRead a) s = .next { s with reply := .byte (s.ramByte (a &&& (s.cfg.ramSize - 1))) } ∧
    exec (.domainWrite a v) s = .next { s with
      ram := Memory.write ramFill s.ram (a &&& (s.cfg.ramSize - 1)) v } ∧
    (mapOk s.cfg = true → a &&& (s.cfg.ramSize - 1) = a % s.cfg.ramSize) ∧
    (∀ addr : Nat, mapOk s.cfg = true → s.cfg.ramBase ≤ addr → addr < s.cfg.ramBase + s.cfg.ramSize →
        exec (.domainRead (addr - s.cfg.ramBase)) s = .next { s with reply := .byte (s.memByte addr) })

/-- The frame buffer is 96 by 64 pixels, row-major, each from its VRAM bit, and nothing changes (48_host_interface.md R312;
the bit order is general knowledge G12, the pixel values OPEN). -/
def Obligations.Framebuffer : Prop :=
  ∀ s : State, ∃ ps : List Pixel, exec .getFramebuffer s = .next { s with reply := .pixels ps } ∧
    ps.length = 96 * 64 ∧
    ∀ row col, row < 64 → col < 96 →
      ps[row * 96 + col]? = some (if pixelBit s row col then s.cfg.fbOn else s.cfg.fbOff)

/-- `SET_BUTTONS(set)` makes `btn` true exactly for the names of the set that the machine has, and changes nothing else
(48_host_interface.md R313). -/
def Obligations.SetButtons : Prop :=
  ∀ (s : State) (names : List Line), ∃ b, exec (.setButtons names) s = .next { s with buttons := b } ∧
    ∀ n, ({ s with buttons := b } : State).btn n = true ↔
      n ∈ names ∧ (n = onName ∨ ∃ group ∈ s.cfg.keymap, ∃ k, (n, k) ∈ group)
end

