-- ==== Sys2Proof/Laws/Memory.lean ====
section
/-! SUPPORT. The laws of byte memories: a read after a write, and that every operation keeps the canonical form and the
bound. -/

namespace Sys2Proof.Machine

variable {d : Byte}

@[simp] theorem Memory.read_nil (a : Nat) : Memory.read d [] a = d := rfl

theorem Memory.wfFrom_mono {lo lo' : Nat} {m : Memory} (h : lo ≤ lo') (hm : Memory.wfFrom d lo' m = true) :
    Memory.wfFrom d lo m = true := by
  cases m with
  | nil => rfl
  | cons c m =>
    simp only [Memory.wfFrom, Bool.and_eq_true, decide_eq_true_eq] at hm ⊢
    exact ⟨⟨by omega, hm.1.2⟩, hm.2⟩

/-- Below its least address a canonical memory reads as the fill. -/
theorem Memory.read_of_lt {lo a : Nat} {m : Memory} (hm : Memory.wfFrom d lo m = true) (h : a < lo) :
    Memory.read d m a = d := by
  induction m generalizing lo with
  | nil => rfl
  | cons c m ih =>
    simp only [Memory.wfFrom, Bool.and_eq_true, decide_eq_true_eq] at hm
    have hc : c.1 ≠ a := by omega
    simp only [Memory.read, hc, if_false]
    exact ih hm.2 (by omega)

/-- The byte just written reads back. -/
theorem Memory.read_write_same {lo : Nat} {m : Memory} (hm : Memory.wfFrom d lo m = true) (a : Nat) (v : Byte) :
    Memory.read d (Memory.write d m a v) a = v := by
  induction m generalizing lo with
  | nil => by_cases hv : v = d <;> simp [Memory.write, Memory.read, hv]
  | cons c m ih =>
    have hm' := hm
    simp only [Memory.wfFrom, Bool.and_eq_true, decide_eq_true_eq] at hm
    unfold Memory.write
    split
    · rename_i hlt
      split
      · rename_i hv
        subst hv
        exact Memory.read_of_lt (lo := c.1) (by simp [Memory.wfFrom, hm.1.2, hm.2]) hlt
      · simp [Memory.read]
    · split
      · rename_i hge heq
        split
        · rename_i hv
          subst hv
          exact Memory.read_of_lt hm.2 (by omega)
        · simp [Memory.read]
      · rename_i h1 h2
        have hc : c.1 ≠ a := fun h => h2 h.symm
        simp only [Memory.read, hc, if_false]
        exact ih hm.2

/-- Every other byte reads as before. -/
theorem Memory.read_write_other {m : Memory} {a b : Nat} (h : b ≠ a) (v : Byte) :
    Memory.read d (Memory.write d m a v) b = Memory.read d m b := by
  have h' : a ≠ b := fun e => h e.symm
  induction m with
  | nil => by_cases hv : v = d <;> simp [Memory.write, Memory.read, hv, h']
  | cons c m ih =>
    unfold Memory.write
    split
    · split
      · rfl
      · simp [Memory.read, h']
    · split
      · rename_i _ heq
        have hc : c.1 ≠ b := by omega
        split <;> simp [Memory.read, hc, h']
      · simp only [Memory.read]
        split
        · rfl
        · exact ih

theorem Memory.wfFrom_write {lo : Nat} {m : Memory} (hm : Memory.wfFrom d lo m = true) {a : Nat} (ha : lo ≤ a)
    (v : Byte) : Memory.wfFrom d lo (Memory.write d m a v) = true := by
  induction m generalizing lo with
  | nil => by_cases hv : v = d <;> simp [Memory.write, Memory.wfFrom, hv, ha]
  | cons c m ih =>
    have hm' := hm
    simp only [Memory.wfFrom, Bool.and_eq_true, decide_eq_true_eq] at hm
    unfold Memory.write
    split
    · split
      · exact hm'
      · rename_i hlt hv
        simp only [Memory.wfFrom, Bool.and_eq_true, decide_eq_true_eq]
        exact ⟨⟨ha, hv⟩, ⟨⟨by omega, hm.1.2⟩, hm.2⟩⟩
    · split
      · rename_i _ heq
        split
        · exact Memory.wfFrom_mono (by omega) hm.2
        · rename_i hv
          simp only [Memory.wfFrom, Bool.and_eq_true, decide_eq_true_eq]
          exact ⟨⟨ha, hv⟩, heq ▸ hm.2⟩
      · simp only [Memory.wfFrom, Bool.and_eq_true, decide_eq_true_eq]
        exact ⟨hm.1, ih hm.2 (by omega)⟩

/-- A write keeps the canonical form. -/
theorem Memory.wf_write {m : Memory} (hm : Memory.wf d m = true) (a : Nat) (v : Byte) :
    Memory.wf d (Memory.write d m a v) = true := Memory.wfFrom_write hm (Nat.zero_le a) v

theorem Memory.below_cons {n : Nat} {c : Host.Cell} {m : Memory} :
    Memory.below n (c :: m) = true ↔ c.1 < n ∧ Memory.below n m = true := by
  simp only [Memory.below, List.all_cons, Bool.and_eq_true, decide_eq_true_eq]

/-- A write inside the bound keeps the bound. -/
theorem Memory.below_write {n : Nat} {m : Memory} (hm : Memory.below n m = true) {a : Nat} (ha : a < n) (v : Byte) :
    Memory.below n (Memory.write d m a v) = true := by
  induction m with
  | nil => by_cases hv : v = d <;> simp [Memory.write, Memory.below, hv, ha]
  | cons c m ih =>
    have hc := Memory.below_cons.mp hm
    unfold Memory.write
    split
    · split
      · exact hm
      · exact Memory.below_cons.mpr ⟨ha, hm⟩
    · split
      · split
        · exact hc.2
        · exact Memory.below_cons.mpr ⟨ha, hc.2⟩
      · exact Memory.below_cons.mpr ⟨hc.1, ih hc.2⟩

theorem Memory.wfFrom_ofBytesFrom (i : Nat) (bs : List Byte) :
    Memory.wfFrom d i (Memory.ofBytesFrom d i bs) = true := by
  induction bs generalizing i with
  | nil => rfl
  | cons b bs ih =>
    unfold Memory.ofBytesFrom
    split
    · exact Memory.wfFrom_mono (Nat.le_succ i) (ih (i + 1))
    · rename_i h
      simp [Memory.wfFrom, h, ih (i + 1)]

theorem Memory.wf_ofBytesFrom (i : Nat) (bs : List Byte) : Memory.wf d (Memory.ofBytesFrom d i bs) = true :=
  Memory.wfFrom_mono (Nat.zero_le i) (Memory.wfFrom_ofBytesFrom i bs)

theorem Memory.below_ofBytesFrom (i : Nat) (bs : List Byte) :
    Memory.below (i + bs.length) (Memory.ofBytesFrom d i bs) = true := by
  induction bs generalizing i with
  | nil => rfl
  | cons b bs ih =>
    have h := ih (i + 1)
    have e : i + 1 + bs.length = i + (b :: bs).length := by simp; omega
    rw [e] at h
    unfold Memory.ofBytesFrom
    split
    · exact h
    · simp only [Memory.below, List.all_cons, Bool.and_eq_true, decide_eq_true_eq] at h ⊢
      exact ⟨by simp, h⟩

@[simp] theorem Memory.length_toBytesFrom (m : Memory) (i n : Nat) : (Memory.toBytesFrom d m i n).length = n := by
  induction n generalizing i with
  | zero => rfl
  | succ n ih => simp [Memory.toBytesFrom, ih]

/-! A memory from cells in any order. -/

theorem Memory.wf_ofCells (n : Nat) (cells : List Host.Cell) : Memory.wf d (Memory.ofCells d n cells) = true := by
  induction cells with
  | nil => rfl
  | cons c cells ih =>
    unfold Memory.ofCells
    split
    · exact Memory.wf_write ih _ _
    · exact ih

theorem Memory.below_ofCells (n : Nat) (cells : List Host.Cell) :
    Memory.below n (Memory.ofCells d n cells) = true := by
  induction cells with
  | nil => rfl
  | cons c cells ih =>
    unfold Memory.ofCells
    split
    · exact Memory.below_write ih (by assumption) _
    · exact ih

/-- Every byte is the one the cells give. -/
theorem Memory.read_ofCells {n i : Nat} (h : i < n) (cells : List Host.Cell) :
    Memory.read d (Memory.ofCells d n cells) i = Memory.read d cells i := by
  induction cells with
  | nil => rfl
  | cons c cells ih =>
    unfold Memory.ofCells
    by_cases hc : c.1 = i
    · rw [if_pos (hc ▸ h), hc, Memory.read_write_same (Memory.wf_ofCells n cells)]
      simp [Memory.read, hc]
    · split
      · rw [Memory.read_write_other (Ne.symm hc), ih]
        simp [Memory.read, hc]
      · rw [ih]
        simp [Memory.read, hc]

/-- A prefix that no offset reaches does not matter. -/
theorem Memory.toBytesFrom_cons {c : Host.Cell} {m : Memory} {i : Nat} (h : c.1 < i) (n : Nat) :
    Memory.toBytesFrom d (c :: m) i n = Memory.toBytesFrom d m i n := by
  induction n generalizing i with
  | zero => rfl
  | succ n ih =>
    have hc : c.1 ≠ i := by omega
    simp [Memory.toBytesFrom, Memory.read, hc, ih (show c.1 < i + 1 by omega)]

/-- A canonical memory is the memory of its bytes (48_host_interface.md R305: every byte is restored). -/
theorem Memory.ofBytesFrom_toBytesFrom {i n : Nat} {m : Memory} (hm : Memory.wfFrom d i m = true)
    (hb : Memory.below (i + n) m = true) : Memory.ofBytesFrom d i (Memory.toBytesFrom d m i n) = m := by
  induction n generalizing i m with
  | zero =>
    cases m with
    | nil => rfl
    | cons c m =>
      simp [Memory.wfFrom, Memory.below] at hm hb
      omega
  | succ n ih =>
    cases m with
    | nil =>
      have h := ih (i := i + 1) (m := []) rfl rfl
      simpa [Memory.toBytesFrom, Memory.ofBytesFrom] using h
    | cons c m =>
      simp only [Memory.wfFrom, Memory.below, List.all_cons, Bool.and_eq_true, decide_eq_true_eq] at hm hb
      by_cases hc : c.1 = i
      · have hne : ¬ c.2 = d := hm.1.2
        simp only [Memory.toBytesFrom, Memory.read, hc, if_true, Memory.ofBytesFrom, hne, if_false]
        rw [Memory.toBytesFrom_cons (by omega), ih (hc ▸ hm.2)
          (by rw [show i + 1 + n = i + (n + 1) by omega]; exact hb.2), ← hc]
      · have hr : Memory.read d (c :: m) i = d :=
          Memory.read_of_lt (lo := c.1) (by simp [Memory.wfFrom, hm.1.2, hm.2]) (by omega)
        simp only [Memory.toBytesFrom, hr, Memory.ofBytesFrom, if_true]
        refine ih ?_ ?_
        · simp only [Memory.wfFrom, Bool.and_eq_true, decide_eq_true_eq]
          exact ⟨⟨by omega, hm.1.2⟩, hm.2⟩
        · simp only [Memory.below, List.all_cons, Bool.and_eq_true, decide_eq_true_eq]
          exact ⟨by omega, by rw [show i + 1 + n = i + (n + 1) by omega]; exact hb.2⟩

end Sys2Proof.Machine
end

