-- ==== Sys2Proof/Laws/State.lean ====
section
/-! SUPPORT. One lemma per field per update of State, each true by rfl: no later proof unfolds a record update. -/

namespace Sys2Proof.Machine

section WithCpu

variable (s : State) (x : Cpu)

@[simp] theorem State.withCpu_cfg : (s.withCpu x).cfg = s.cfg := rfl
@[simp] theorem State.withCpu_startPc : (s.withCpu x).startPc = s.startPc := rfl
@[simp] theorem State.withCpu_hooks : (s.withCpu x).hooks = s.hooks := rfl
@[simp] theorem State.withCpu_engine : (s.withCpu x).engine = s.engine := rfl
@[simp] theorem State.withCpu_cpu : (s.withCpu x).cpu = x.fitTo s.cfg.addrBits := rfl
@[simp] theorem State.withCpu_irqLine : (s.withCpu x).irqLine = s.irqLine := rfl
@[simp] theorem State.withCpu_nmiLine : (s.withCpu x).nmiLine = s.nmiLine := rfl
@[simp] theorem State.withCpu_rom : (s.withCpu x).rom = s.rom := rfl
@[simp] theorem State.withCpu_ram : (s.withCpu x).ram = s.ram := rfl
@[simp] theorem State.withCpu_vram : (s.withCpu x).vram = s.vram := rfl
@[simp] theorem State.withCpu_map : (s.withCpu x).map = s.map := rfl
@[simp] theorem State.withCpu_disp : (s.withCpu x).disp = s.disp := rfl
@[simp] theorem State.withCpu_kbd : (s.withCpu x).kbd = s.kbd := rfl
@[simp] theorem State.withCpu_link : (s.withCpu x).link = s.link := rfl
@[simp] theorem State.withCpu_ctr : (s.withCpu x).ctr = s.ctr := rfl
@[simp] theorem State.withCpu_buttons : (s.withCpu x).buttons = s.buttons := rfl
@[simp] theorem State.withCpu_pollFeed : (s.withCpu x).pollFeed = s.pollFeed := rfl
@[simp] theorem State.withCpu_inFrame : (s.withCpu x).inFrame = s.inFrame := rfl
@[simp] theorem State.withCpu_pending : (s.withCpu x).pending = s.pending := rfl
@[simp] theorem State.withCpu_disposed : (s.withCpu x).disposed = s.disposed := rfl
@[simp] theorem State.withCpu_delivered : (s.withCpu x).delivered = s.delivered := rfl
@[simp] theorem State.withCpu_hookLog : (s.withCpu x).hookLog = s.hookLog := rfl
@[simp] theorem State.withCpu_reply : (s.withCpu x).reply = s.reply := rfl

@[simp] theorem Cpu.fitTo_pc (bits : Nat) : (x.fitTo bits).pc = x.pc % 2 ^ bits := rfl
@[simp] theorem Cpu.fitTo_block (bits : Nat) : (x.fitTo bits).block = x.block := rfl

/-- A `cpu.PC` that has its width keeps its value. -/
theorem Cpu.fitTo_of_lt {bits : Nat} (h : x.pc < 2 ^ bits) : x.fitTo bits = x := by
  simp [Cpu.fitTo, Nat.mod_eq_of_lt h]

end WithCpu

section WithIrqLine

variable (s : State) (x : Bool)

@[simp] theorem State.withIrqLine_cfg : (s.withIrqLine x).cfg = s.cfg := rfl
@[simp] theorem State.withIrqLine_startPc : (s.withIrqLine x).startPc = s.startPc := rfl
@[simp] theorem State.withIrqLine_hooks : (s.withIrqLine x).hooks = s.hooks := rfl
@[simp] theorem State.withIrqLine_engine : (s.withIrqLine x).engine = s.engine := rfl
@[simp] theorem State.withIrqLine_cpu : (s.withIrqLine x).cpu = s.cpu := rfl
@[simp] theorem State.withIrqLine_irqLine : (s.withIrqLine x).irqLine = x := rfl
@[simp] theorem State.withIrqLine_nmiLine : (s.withIrqLine x).nmiLine = s.nmiLine := rfl
@[simp] theorem State.withIrqLine_rom : (s.withIrqLine x).rom = s.rom := rfl
@[simp] theorem State.withIrqLine_ram : (s.withIrqLine x).ram = s.ram := rfl
@[simp] theorem State.withIrqLine_vram : (s.withIrqLine x).vram = s.vram := rfl
@[simp] theorem State.withIrqLine_map : (s.withIrqLine x).map = s.map := rfl
@[simp] theorem State.withIrqLine_disp : (s.withIrqLine x).disp = s.disp := rfl
@[simp] theorem State.withIrqLine_kbd : (s.withIrqLine x).kbd = s.kbd := rfl
@[simp] theorem State.withIrqLine_link : (s.withIrqLine x).link = s.link := rfl
@[simp] theorem State.withIrqLine_ctr : (s.withIrqLine x).ctr = s.ctr := rfl
@[simp] theorem State.withIrqLine_buttons : (s.withIrqLine x).buttons = s.buttons := rfl
@[simp] theorem State.withIrqLine_pollFeed : (s.withIrqLine x).pollFeed = s.pollFeed := rfl
@[simp] theorem State.withIrqLine_inFrame : (s.withIrqLine x).inFrame = s.inFrame := rfl
@[simp] theorem State.withIrqLine_pending : (s.withIrqLine x).pending = s.pending := rfl
@[simp] theorem State.withIrqLine_disposed : (s.withIrqLine x).disposed = s.disposed := rfl
@[simp] theorem State.withIrqLine_delivered : (s.withIrqLine x).delivered = s.delivered := rfl
@[simp] theorem State.withIrqLine_hookLog : (s.withIrqLine x).hookLog = s.hookLog := rfl
@[simp] theorem State.withIrqLine_reply : (s.withIrqLine x).reply = s.reply := rfl

end WithIrqLine

section WithRam

variable (s : State) (x : Memory)

@[simp] theorem State.withRam_cfg : (s.withRam x).cfg = s.cfg := rfl
@[simp] theorem State.withRam_startPc : (s.withRam x).startPc = s.startPc := rfl
@[simp] theorem State.withRam_hooks : (s.withRam x).hooks = s.hooks := rfl
@[simp] theorem State.withRam_engine : (s.withRam x).engine = s.engine := rfl
@[simp] theorem State.withRam_cpu : (s.withRam x).cpu = s.cpu := rfl
@[simp] theorem State.withRam_irqLine : (s.withRam x).irqLine = s.irqLine := rfl
@[simp] theorem State.withRam_nmiLine : (s.withRam x).nmiLine = s.nmiLine := rfl
@[simp] theorem State.withRam_rom : (s.withRam x).rom = s.rom := rfl
@[simp] theorem State.withRam_ram : (s.withRam x).ram = x := rfl
@[simp] theorem State.withRam_vram : (s.withRam x).vram = s.vram := rfl
@[simp] theorem State.withRam_map : (s.withRam x).map = s.map := rfl
@[simp] theorem State.withRam_disp : (s.withRam x).disp = s.disp := rfl
@[simp] theorem State.withRam_kbd : (s.withRam x).kbd = s.kbd := rfl
@[simp] theorem State.withRam_link : (s.withRam x).link = s.link := rfl
@[simp] theorem State.withRam_ctr : (s.withRam x).ctr = s.ctr := rfl
@[simp] theorem State.withRam_buttons : (s.withRam x).buttons = s.buttons := rfl
@[simp] theorem State.withRam_pollFeed : (s.withRam x).pollFeed = s.pollFeed := rfl
@[simp] theorem State.withRam_inFrame : (s.withRam x).inFrame = s.inFrame := rfl
@[simp] theorem State.withRam_pending : (s.withRam x).pending = s.pending := rfl
@[simp] theorem State.withRam_disposed : (s.withRam x).disposed = s.disposed := rfl
@[simp] theorem State.withRam_delivered : (s.withRam x).delivered = s.delivered := rfl
@[simp] theorem State.withRam_hookLog : (s.withRam x).hookLog = s.hookLog := rfl
@[simp] theorem State.withRam_reply : (s.withRam x).reply = s.reply := rfl

end WithRam

section WithVram

variable (s : State) (x : Memory)

@[simp] theorem State.withVram_cfg : (s.withVram x).cfg = s.cfg := rfl
@[simp] theorem State.withVram_startPc : (s.withVram x).startPc = s.startPc := rfl
@[simp] theorem State.withVram_hooks : (s.withVram x).hooks = s.hooks := rfl
@[simp] theorem State.withVram_engine : (s.withVram x).engine = s.engine := rfl
@[simp] theorem State.withVram_cpu : (s.withVram x).cpu = s.cpu := rfl
@[simp] theorem State.withVram_irqLine : (s.withVram x).irqLine = s.irqLine := rfl
@[simp] theorem State.withVram_nmiLine : (s.withVram x).nmiLine = s.nmiLine := rfl
@[simp] theorem State.withVram_rom : (s.withVram x).rom = s.rom := rfl
@[simp] theorem State.withVram_ram : (s.withVram x).ram = s.ram := rfl
@[simp] theorem State.withVram_vram : (s.withVram x).vram = x := rfl
@[simp] theorem State.withVram_map : (s.withVram x).map = s.map := rfl
@[simp] theorem State.withVram_disp : (s.withVram x).disp = s.disp := rfl
@[simp] theorem State.withVram_kbd : (s.withVram x).kbd = s.kbd := rfl
@[simp] theorem State.withVram_link : (s.withVram x).link = s.link := rfl
@[simp] theorem State.withVram_ctr : (s.withVram x).ctr = s.ctr := rfl
@[simp] theorem State.withVram_buttons : (s.withVram x).buttons = s.buttons := rfl
@[simp] theorem State.withVram_pollFeed : (s.withVram x).pollFeed = s.pollFeed := rfl
@[simp] theorem State.withVram_inFrame : (s.withVram x).inFrame = s.inFrame := rfl
@[simp] theorem State.withVram_pending : (s.withVram x).pending = s.pending := rfl
@[simp] theorem State.withVram_disposed : (s.withVram x).disposed = s.disposed := rfl
@[simp] theorem State.withVram_delivered : (s.withVram x).delivered = s.delivered := rfl
@[simp] theorem State.withVram_hookLog : (s.withVram x).hookLog = s.hookLog := rfl
@[simp] theorem State.withVram_reply : (s.withVram x).reply = s.reply := rfl

end WithVram

section WithMap

variable (s : State) (x : Mapping)

@[simp] theorem State.withMap_cfg : (s.withMap x).cfg = s.cfg := rfl
@[simp] theorem State.withMap_startPc : (s.withMap x).startPc = s.startPc := rfl
@[simp] theorem State.withMap_hooks : (s.withMap x).hooks = s.hooks := rfl
@[simp] theorem State.withMap_engine : (s.withMap x).engine = s.engine := rfl
@[simp] theorem State.withMap_cpu : (s.withMap x).cpu = s.cpu := rfl
@[simp] theorem State.withMap_irqLine : (s.withMap x).irqLine = s.irqLine := rfl
@[simp] theorem State.withMap_nmiLine : (s.withMap x).nmiLine = s.nmiLine := rfl
@[simp] theorem State.withMap_rom : (s.withMap x).rom = s.rom := rfl
@[simp] theorem State.withMap_ram : (s.withMap x).ram = s.ram := rfl
@[simp] theorem State.withMap_vram : (s.withMap x).vram = s.vram := rfl
@[simp] theorem State.withMap_map : (s.withMap x).map = x := rfl
@[simp] theorem State.withMap_disp : (s.withMap x).disp = s.disp := rfl
@[simp] theorem State.withMap_kbd : (s.withMap x).kbd = s.kbd := rfl
@[simp] theorem State.withMap_link : (s.withMap x).link = s.link := rfl
@[simp] theorem State.withMap_ctr : (s.withMap x).ctr = s.ctr := rfl
@[simp] theorem State.withMap_buttons : (s.withMap x).buttons = s.buttons := rfl
@[simp] theorem State.withMap_pollFeed : (s.withMap x).pollFeed = s.pollFeed := rfl
@[simp] theorem State.withMap_inFrame : (s.withMap x).inFrame = s.inFrame := rfl
@[simp] theorem State.withMap_pending : (s.withMap x).pending = s.pending := rfl
@[simp] theorem State.withMap_disposed : (s.withMap x).disposed = s.disposed := rfl
@[simp] theorem State.withMap_delivered : (s.withMap x).delivered = s.delivered := rfl
@[simp] theorem State.withMap_hookLog : (s.withMap x).hookLog = s.hookLog := rfl
@[simp] theorem State.withMap_reply : (s.withMap x).reply = s.reply := rfl

end WithMap

section WithDisp

variable (s : State) (x : Display)

@[simp] theorem State.withDisp_cfg : (s.withDisp x).cfg = s.cfg := rfl
@[simp] theorem State.withDisp_startPc : (s.withDisp x).startPc = s.startPc := rfl
@[simp] theorem State.withDisp_hooks : (s.withDisp x).hooks = s.hooks := rfl
@[simp] theorem State.withDisp_engine : (s.withDisp x).engine = s.engine := rfl
@[simp] theorem State.withDisp_cpu : (s.withDisp x).cpu = s.cpu := rfl
@[simp] theorem State.withDisp_irqLine : (s.withDisp x).irqLine = s.irqLine := rfl
@[simp] theorem State.withDisp_nmiLine : (s.withDisp x).nmiLine = s.nmiLine := rfl
@[simp] theorem State.withDisp_rom : (s.withDisp x).rom = s.rom := rfl
@[simp] theorem State.withDisp_ram : (s.withDisp x).ram = s.ram := rfl
@[simp] theorem State.withDisp_vram : (s.withDisp x).vram = s.vram := rfl
@[simp] theorem State.withDisp_map : (s.withDisp x).map = s.map := rfl
@[simp] theorem State.withDisp_disp : (s.withDisp x).disp = x := rfl
@[simp] theorem State.withDisp_kbd : (s.withDisp x).kbd = s.kbd := rfl
@[simp] theorem State.withDisp_link : (s.withDisp x).link = s.link := rfl
@[simp] theorem State.withDisp_ctr : (s.withDisp x).ctr = s.ctr := rfl
@[simp] theorem State.withDisp_buttons : (s.withDisp x).buttons = s.buttons := rfl
@[simp] theorem State.withDisp_pollFeed : (s.withDisp x).pollFeed = s.pollFeed := rfl
@[simp] theorem State.withDisp_inFrame : (s.withDisp x).inFrame = s.inFrame := rfl
@[simp] theorem State.withDisp_pending : (s.withDisp x).pending = s.pending := rfl
@[simp] theorem State.withDisp_disposed : (s.withDisp x).disposed = s.disposed := rfl
@[simp] theorem State.withDisp_delivered : (s.withDisp x).delivered = s.delivered := rfl
@[simp] theorem State.withDisp_hookLog : (s.withDisp x).hookLog = s.hookLog := rfl
@[simp] theorem State.withDisp_reply : (s.withDisp x).reply = s.reply := rfl

end WithDisp

section WithKbd

variable (s : State) (x : Keyboard)

@[simp] theorem State.withKbd_cfg : (s.withKbd x).cfg = s.cfg := rfl
@[simp] theorem State.withKbd_startPc : (s.withKbd x).startPc = s.startPc := rfl
@[simp] theorem State.withKbd_hooks : (s.withKbd x).hooks = s.hooks := rfl
@[simp] theorem State.withKbd_engine : (s.withKbd x).engine = s.engine := rfl
@[simp] theorem State.withKbd_cpu : (s.withKbd x).cpu = s.cpu := rfl
@[simp] theorem State.withKbd_irqLine : (s.withKbd x).irqLine = s.irqLine := rfl
@[simp] theorem State.withKbd_nmiLine : (s.withKbd x).nmiLine = s.nmiLine := rfl
@[simp] theorem State.withKbd_rom : (s.withKbd x).rom = s.rom := rfl
@[simp] theorem State.withKbd_ram : (s.withKbd x).ram = s.ram := rfl
@[simp] theorem State.withKbd_vram : (s.withKbd x).vram = s.vram := rfl
@[simp] theorem State.withKbd_map : (s.withKbd x).map = s.map := rfl
@[simp] theorem State.withKbd_disp : (s.withKbd x).disp = s.disp := rfl
@[simp] theorem State.withKbd_kbd : (s.withKbd x).kbd = x := rfl
@[simp] theorem State.withKbd_link : (s.withKbd x).link = s.link := rfl
@[simp] theorem State.withKbd_ctr : (s.withKbd x).ctr = s.ctr := rfl
@[simp] theorem State.withKbd_buttons : (s.withKbd x).buttons = s.buttons := rfl
@[simp] theorem State.withKbd_pollFeed : (s.withKbd x).pollFeed = s.pollFeed := rfl
@[simp] theorem State.withKbd_inFrame : (s.withKbd x).inFrame = s.inFrame := rfl
@[simp] theorem State.withKbd_pending : (s.withKbd x).pending = s.pending := rfl
@[simp] theorem State.withKbd_disposed : (s.withKbd x).disposed = s.disposed := rfl
@[simp] theorem State.withKbd_delivered : (s.withKbd x).delivered = s.delivered := rfl
@[simp] theorem State.withKbd_hookLog : (s.withKbd x).hookLog = s.hookLog := rfl
@[simp] theorem State.withKbd_reply : (s.withKbd x).reply = s.reply := rfl

end WithKbd

section WithLink

variable (s : State) (x : Link)

@[simp] theorem State.withLink_cfg : (s.withLink x).cfg = s.cfg := rfl
@[simp] theorem State.withLink_startPc : (s.withLink x).startPc = s.startPc := rfl
@[simp] theorem State.withLink_hooks : (s.withLink x).hooks = s.hooks := rfl
@[simp] theorem State.withLink_engine : (s.withLink x).engine = s.engine := rfl
@[simp] theorem State.withLink_cpu : (s.withLink x).cpu = s.cpu := rfl
@[simp] theorem State.withLink_irqLine : (s.withLink x).irqLine = s.irqLine := rfl
@[simp] theorem State.withLink_nmiLine : (s.withLink x).nmiLine = s.nmiLine := rfl
@[simp] theorem State.withLink_rom : (s.withLink x).rom = s.rom := rfl
@[simp] theorem State.withLink_ram : (s.withLink x).ram = s.ram := rfl
@[simp] theorem State.withLink_vram : (s.withLink x).vram = s.vram := rfl
@[simp] theorem State.withLink_map : (s.withLink x).map = s.map := rfl
@[simp] theorem State.withLink_disp : (s.withLink x).disp = s.disp := rfl
@[simp] theorem State.withLink_kbd : (s.withLink x).kbd = s.kbd := rfl
@[simp] theorem State.withLink_link : (s.withLink x).link = x := rfl
@[simp] theorem State.withLink_ctr : (s.withLink x).ctr = s.ctr := rfl
@[simp] theorem State.withLink_buttons : (s.withLink x).buttons = s.buttons := rfl
@[simp] theorem State.withLink_pollFeed : (s.withLink x).pollFeed = s.pollFeed := rfl
@[simp] theorem State.withLink_inFrame : (s.withLink x).inFrame = s.inFrame := rfl
@[simp] theorem State.withLink_pending : (s.withLink x).pending = s.pending := rfl
@[simp] theorem State.withLink_disposed : (s.withLink x).disposed = s.disposed := rfl
@[simp] theorem State.withLink_delivered : (s.withLink x).delivered = s.delivered := rfl
@[simp] theorem State.withLink_hookLog : (s.withLink x).hookLog = s.hookLog := rfl
@[simp] theorem State.withLink_reply : (s.withLink x).reply = s.reply := rfl

end WithLink

section WithCtr

variable (s : State) (x : Counters)

@[simp] theorem State.withCtr_cfg : (s.withCtr x).cfg = s.cfg := rfl
@[simp] theorem State.withCtr_startPc : (s.withCtr x).startPc = s.startPc := rfl
@[simp] theorem State.withCtr_hooks : (s.withCtr x).hooks = s.hooks := rfl
@[simp] theorem State.withCtr_engine : (s.withCtr x).engine = s.engine := rfl
@[simp] theorem State.withCtr_cpu : (s.withCtr x).cpu = s.cpu := rfl
@[simp] theorem State.withCtr_irqLine : (s.withCtr x).irqLine = s.irqLine := rfl
@[simp] theorem State.withCtr_nmiLine : (s.withCtr x).nmiLine = s.nmiLine := rfl
@[simp] theorem State.withCtr_rom : (s.withCtr x).rom = s.rom := rfl
@[simp] theorem State.withCtr_ram : (s.withCtr x).ram = s.ram := rfl
@[simp] theorem State.withCtr_vram : (s.withCtr x).vram = s.vram := rfl
@[simp] theorem State.withCtr_map : (s.withCtr x).map = s.map := rfl
@[simp] theorem State.withCtr_disp : (s.withCtr x).disp = s.disp := rfl
@[simp] theorem State.withCtr_kbd : (s.withCtr x).kbd = s.kbd := rfl
@[simp] theorem State.withCtr_link : (s.withCtr x).link = s.link := rfl
@[simp] theorem State.withCtr_ctr : (s.withCtr x).ctr = x := rfl
@[simp] theorem State.withCtr_buttons : (s.withCtr x).buttons = s.buttons := rfl
@[simp] theorem State.withCtr_pollFeed : (s.withCtr x).pollFeed = s.pollFeed := rfl
@[simp] theorem State.withCtr_inFrame : (s.withCtr x).inFrame = s.inFrame := rfl
@[simp] theorem State.withCtr_pending : (s.withCtr x).pending = s.pending := rfl
@[simp] theorem State.withCtr_disposed : (s.withCtr x).disposed = s.disposed := rfl
@[simp] theorem State.withCtr_delivered : (s.withCtr x).delivered = s.delivered := rfl
@[simp] theorem State.withCtr_hookLog : (s.withCtr x).hookLog = s.hookLog := rfl
@[simp] theorem State.withCtr_reply : (s.withCtr x).reply = s.reply := rfl

end WithCtr

section WithButtons

variable (s : State) (x : List Line)

@[simp] theorem State.withButtons_cfg : (s.withButtons x).cfg = s.cfg := rfl
@[simp] theorem State.withButtons_startPc : (s.withButtons x).startPc = s.startPc := rfl
@[simp] theorem State.withButtons_hooks : (s.withButtons x).hooks = s.hooks := rfl
@[simp] theorem State.withButtons_engine : (s.withButtons x).engine = s.engine := rfl
@[simp] theorem State.withButtons_cpu : (s.withButtons x).cpu = s.cpu := rfl
@[simp] theorem State.withButtons_irqLine : (s.withButtons x).irqLine = s.irqLine := rfl
@[simp] theorem State.withButtons_nmiLine : (s.withButtons x).nmiLine = s.nmiLine := rfl
@[simp] theorem State.withButtons_rom : (s.withButtons x).rom = s.rom := rfl
@[simp] theorem State.withButtons_ram : (s.withButtons x).ram = s.ram := rfl
@[simp] theorem State.withButtons_vram : (s.withButtons x).vram = s.vram := rfl
@[simp] theorem State.withButtons_map : (s.withButtons x).map = s.map := rfl
@[simp] theorem State.withButtons_disp : (s.withButtons x).disp = s.disp := rfl
@[simp] theorem State.withButtons_kbd : (s.withButtons x).kbd = s.kbd := rfl
@[simp] theorem State.withButtons_link : (s.withButtons x).link = s.link := rfl
@[simp] theorem State.withButtons_ctr : (s.withButtons x).ctr = s.ctr := rfl
@[simp] theorem State.withButtons_buttons : (s.withButtons x).buttons = x := rfl
@[simp] theorem State.withButtons_pollFeed : (s.withButtons x).pollFeed = s.pollFeed := rfl
@[simp] theorem State.withButtons_inFrame : (s.withButtons x).inFrame = s.inFrame := rfl
@[simp] theorem State.withButtons_pending : (s.withButtons x).pending = s.pending := rfl
@[simp] theorem State.withButtons_disposed : (s.withButtons x).disposed = s.disposed := rfl
@[simp] theorem State.withButtons_delivered : (s.withButtons x).delivered = s.delivered := rfl
@[simp] theorem State.withButtons_hookLog : (s.withButtons x).hookLog = s.hookLog := rfl
@[simp] theorem State.withButtons_reply : (s.withButtons x).reply = s.reply := rfl

end WithButtons

section WithPollFeed

variable (s : State) (x : List (List Line))

@[simp] theorem State.withPollFeed_cfg : (s.withPollFeed x).cfg = s.cfg := rfl
@[simp] theorem State.withPollFeed_startPc : (s.withPollFeed x).startPc = s.startPc := rfl
@[simp] theorem State.withPollFeed_hooks : (s.withPollFeed x).hooks = s.hooks := rfl
@[simp] theorem State.withPollFeed_engine : (s.withPollFeed x).engine = s.engine := rfl
@[simp] theorem State.withPollFeed_cpu : (s.withPollFeed x).cpu = s.cpu := rfl
@[simp] theorem State.withPollFeed_irqLine : (s.withPollFeed x).irqLine = s.irqLine := rfl
@[simp] theorem State.withPollFeed_nmiLine : (s.withPollFeed x).nmiLine = s.nmiLine := rfl
@[simp] theorem State.withPollFeed_rom : (s.withPollFeed x).rom = s.rom := rfl
@[simp] theorem State.withPollFeed_ram : (s.withPollFeed x).ram = s.ram := rfl
@[simp] theorem State.withPollFeed_vram : (s.withPollFeed x).vram = s.vram := rfl
@[simp] theorem State.withPollFeed_map : (s.withPollFeed x).map = s.map := rfl
@[simp] theorem State.withPollFeed_disp : (s.withPollFeed x).disp = s.disp := rfl
@[simp] theorem State.withPollFeed_kbd : (s.withPollFeed x).kbd = s.kbd := rfl
@[simp] theorem State.withPollFeed_link : (s.withPollFeed x).link = s.link := rfl
@[simp] theorem State.withPollFeed_ctr : (s.withPollFeed x).ctr = s.ctr := rfl
@[simp] theorem State.withPollFeed_buttons : (s.withPollFeed x).buttons = s.buttons := rfl
@[simp] theorem State.withPollFeed_pollFeed : (s.withPollFeed x).pollFeed = x := rfl
@[simp] theorem State.withPollFeed_inFrame : (s.withPollFeed x).inFrame = s.inFrame := rfl
@[simp] theorem State.withPollFeed_pending : (s.withPollFeed x).pending = s.pending := rfl
@[simp] theorem State.withPollFeed_disposed : (s.withPollFeed x).disposed = s.disposed := rfl
@[simp] theorem State.withPollFeed_delivered : (s.withPollFeed x).delivered = s.delivered := rfl
@[simp] theorem State.withPollFeed_hookLog : (s.withPollFeed x).hookLog = s.hookLog := rfl
@[simp] theorem State.withPollFeed_reply : (s.withPollFeed x).reply = s.reply := rfl

end WithPollFeed

section WithInFrame

variable (s : State) (x : Bool)

@[simp] theorem State.withInFrame_cfg : (s.withInFrame x).cfg = s.cfg := rfl
@[simp] theorem State.withInFrame_startPc : (s.withInFrame x).startPc = s.startPc := rfl
@[simp] theorem State.withInFrame_hooks : (s.withInFrame x).hooks = s.hooks := rfl
@[simp] theorem State.withInFrame_engine : (s.withInFrame x).engine = s.engine := rfl
@[simp] theorem State.withInFrame_cpu : (s.withInFrame x).cpu = s.cpu := rfl
@[simp] theorem State.withInFrame_irqLine : (s.withInFrame x).irqLine = s.irqLine := rfl
@[simp] theorem State.withInFrame_nmiLine : (s.withInFrame x).nmiLine = s.nmiLine := rfl
@[simp] theorem State.withInFrame_rom : (s.withInFrame x).rom = s.rom := rfl
@[simp] theorem State.withInFrame_ram : (s.withInFrame x).ram = s.ram := rfl
@[simp] theorem State.withInFrame_vram : (s.withInFrame x).vram = s.vram := rfl
@[simp] theorem State.withInFrame_map : (s.withInFrame x).map = s.map := rfl
@[simp] theorem State.withInFrame_disp : (s.withInFrame x).disp = s.disp := rfl
@[simp] theorem State.withInFrame_kbd : (s.withInFrame x).kbd = s.kbd := rfl
@[simp] theorem State.withInFrame_link : (s.withInFrame x).link = s.link := rfl
@[simp] theorem State.withInFrame_ctr : (s.withInFrame x).ctr = s.ctr := rfl
@[simp] theorem State.withInFrame_buttons : (s.withInFrame x).buttons = s.buttons := rfl
@[simp] theorem State.withInFrame_pollFeed : (s.withInFrame x).pollFeed = s.pollFeed := rfl
@[simp] theorem State.withInFrame_inFrame : (s.withInFrame x).inFrame = x := rfl
@[simp] theorem State.withInFrame_pending : (s.withInFrame x).pending = s.pending := rfl
@[simp] theorem State.withInFrame_disposed : (s.withInFrame x).disposed = s.disposed := rfl
@[simp] theorem State.withInFrame_delivered : (s.withInFrame x).delivered = s.delivered := rfl
@[simp] theorem State.withInFrame_hookLog : (s.withInFrame x).hookLog = s.hookLog := rfl
@[simp] theorem State.withInFrame_reply : (s.withInFrame x).reply = s.reply := rfl

end WithInFrame

section WithPending

variable (s : State) (x : List Slot)

@[simp] theorem State.withPending_cfg : (s.withPending x).cfg = s.cfg := rfl
@[simp] theorem State.withPending_startPc : (s.withPending x).startPc = s.startPc := rfl
@[simp] theorem State.withPending_hooks : (s.withPending x).hooks = s.hooks := rfl
@[simp] theorem State.withPending_engine : (s.withPending x).engine = s.engine := rfl
@[simp] theorem State.withPending_cpu : (s.withPending x).cpu = s.cpu := rfl
@[simp] theorem State.withPending_irqLine : (s.withPending x).irqLine = s.irqLine := rfl
@[simp] theorem State.withPending_nmiLine : (s.withPending x).nmiLine = s.nmiLine := rfl
@[simp] theorem State.withPending_rom : (s.withPending x).rom = s.rom := rfl
@[simp] theorem State.withPending_ram : (s.withPending x).ram = s.ram := rfl
@[simp] theorem State.withPending_vram : (s.withPending x).vram = s.vram := rfl
@[simp] theorem State.withPending_map : (s.withPending x).map = s.map := rfl
@[simp] theorem State.withPending_disp : (s.withPending x).disp = s.disp := rfl
@[simp] theorem State.withPending_kbd : (s.withPending x).kbd = s.kbd := rfl
@[simp] theorem State.withPending_link : (s.withPending x).link = s.link := rfl
@[simp] theorem State.withPending_ctr : (s.withPending x).ctr = s.ctr := rfl
@[simp] theorem State.withPending_buttons : (s.withPending x).buttons = s.buttons := rfl
@[simp] theorem State.withPending_pollFeed : (s.withPending x).pollFeed = s.pollFeed := rfl
@[simp] theorem State.withPending_inFrame : (s.withPending x).inFrame = s.inFrame := rfl
@[simp] theorem State.withPending_pending : (s.withPending x).pending = x := rfl
@[simp] theorem State.withPending_disposed : (s.withPending x).disposed = s.disposed := rfl
@[simp] theorem State.withPending_delivered : (s.withPending x).delivered = s.delivered := rfl
@[simp] theorem State.withPending_hookLog : (s.withPending x).hookLog = s.hookLog := rfl
@[simp] theorem State.withPending_reply : (s.withPending x).reply = s.reply := rfl

end WithPending

section WithDisposed

variable (s : State) (x : Bool)

@[simp] theorem State.withDisposed_cfg : (s.withDisposed x).cfg = s.cfg := rfl
@[simp] theorem State.withDisposed_startPc : (s.withDisposed x).startPc = s.startPc := rfl
@[simp] theorem State.withDisposed_hooks : (s.withDisposed x).hooks = s.hooks := rfl
@[simp] theorem State.withDisposed_engine : (s.withDisposed x).engine = s.engine := rfl
@[simp] theorem State.withDisposed_cpu : (s.withDisposed x).cpu = s.cpu := rfl
@[simp] theorem State.withDisposed_irqLine : (s.withDisposed x).irqLine = s.irqLine := rfl
@[simp] theorem State.withDisposed_nmiLine : (s.withDisposed x).nmiLine = s.nmiLine := rfl
@[simp] theorem State.withDisposed_rom : (s.withDisposed x).rom = s.rom := rfl
@[simp] theorem State.withDisposed_ram : (s.withDisposed x).ram = s.ram := rfl
@[simp] theorem State.withDisposed_vram : (s.withDisposed x).vram = s.vram := rfl
@[simp] theorem State.withDisposed_map : (s.withDisposed x).map = s.map := rfl
@[simp] theorem State.withDisposed_disp : (s.withDisposed x).disp = s.disp := rfl
@[simp] theorem State.withDisposed_kbd : (s.withDisposed x).kbd = s.kbd := rfl
@[simp] theorem State.withDisposed_link : (s.withDisposed x).link = s.link := rfl
@[simp] theorem State.withDisposed_ctr : (s.withDisposed x).ctr = s.ctr := rfl
@[simp] theorem State.withDisposed_buttons : (s.withDisposed x).buttons = s.buttons := rfl
@[simp] theorem State.withDisposed_pollFeed : (s.withDisposed x).pollFeed = s.pollFeed := rfl
@[simp] theorem State.withDisposed_inFrame : (s.withDisposed x).inFrame = s.inFrame := rfl
@[simp] theorem State.withDisposed_pending : (s.withDisposed x).pending = s.pending := rfl
@[simp] theorem State.withDisposed_disposed : (s.withDisposed x).disposed = x := rfl
@[simp] theorem State.withDisposed_delivered : (s.withDisposed x).delivered = s.delivered := rfl
@[simp] theorem State.withDisposed_hookLog : (s.withDisposed x).hookLog = s.hookLog := rfl
@[simp] theorem State.withDisposed_reply : (s.withDisposed x).reply = s.reply := rfl

end WithDisposed

section WithDelivered

variable (s : State) (x : List Byte)

@[simp] theorem State.withDelivered_cfg : (s.withDelivered x).cfg = s.cfg := rfl
@[simp] theorem State.withDelivered_startPc : (s.withDelivered x).startPc = s.startPc := rfl
@[simp] theorem State.withDelivered_hooks : (s.withDelivered x).hooks = s.hooks := rfl
@[simp] theorem State.withDelivered_engine : (s.withDelivered x).engine = s.engine := rfl
@[simp] theorem State.withDelivered_cpu : (s.withDelivered x).cpu = s.cpu := rfl
@[simp] theorem State.withDelivered_irqLine : (s.withDelivered x).irqLine = s.irqLine := rfl
@[simp] theorem State.withDelivered_nmiLine : (s.withDelivered x).nmiLine = s.nmiLine := rfl
@[simp] theorem State.withDelivered_rom : (s.withDelivered x).rom = s.rom := rfl
@[simp] theorem State.withDelivered_ram : (s.withDelivered x).ram = s.ram := rfl
@[simp] theorem State.withDelivered_vram : (s.withDelivered x).vram = s.vram := rfl
@[simp] theorem State.withDelivered_map : (s.withDelivered x).map = s.map := rfl
@[simp] theorem State.withDelivered_disp : (s.withDelivered x).disp = s.disp := rfl
@[simp] theorem State.withDelivered_kbd : (s.withDelivered x).kbd = s.kbd := rfl
@[simp] theorem State.withDelivered_link : (s.withDelivered x).link = s.link := rfl
@[simp] theorem State.withDelivered_ctr : (s.withDelivered x).ctr = s.ctr := rfl
@[simp] theorem State.withDelivered_buttons : (s.withDelivered x).buttons = s.buttons := rfl
@[simp] theorem State.withDelivered_pollFeed : (s.withDelivered x).pollFeed = s.pollFeed := rfl
@[simp] theorem State.withDelivered_inFrame : (s.withDelivered x).inFrame = s.inFrame := rfl
@[simp] theorem State.withDelivered_pending : (s.withDelivered x).pending = s.pending := rfl
@[simp] theorem State.withDelivered_disposed : (s.withDelivered x).disposed = s.disposed := rfl
@[simp] theorem State.withDelivered_delivered : (s.withDelivered x).delivered = x := rfl
@[simp] theorem State.withDelivered_hookLog : (s.withDelivered x).hookLog = s.hookLog := rfl
@[simp] theorem State.withDelivered_reply : (s.withDelivered x).reply = s.reply := rfl

end WithDelivered

section WithHookLog

variable (s : State) (x : List HookEvent)

@[simp] theorem State.withHookLog_cfg : (s.withHookLog x).cfg = s.cfg := rfl
@[simp] theorem State.withHookLog_startPc : (s.withHookLog x).startPc = s.startPc := rfl
@[simp] theorem State.withHookLog_hooks : (s.withHookLog x).hooks = s.hooks := rfl
@[simp] theorem State.withHookLog_engine : (s.withHookLog x).engine = s.engine := rfl
@[simp] theorem State.withHookLog_cpu : (s.withHookLog x).cpu = s.cpu := rfl
@[simp] theorem State.withHookLog_irqLine : (s.withHookLog x).irqLine = s.irqLine := rfl
@[simp] theorem State.withHookLog_nmiLine : (s.withHookLog x).nmiLine = s.nmiLine := rfl
@[simp] theorem State.withHookLog_rom : (s.withHookLog x).rom = s.rom := rfl
@[simp] theorem State.withHookLog_ram : (s.withHookLog x).ram = s.ram := rfl
@[simp] theorem State.withHookLog_vram : (s.withHookLog x).vram = s.vram := rfl
@[simp] theorem State.withHookLog_map : (s.withHookLog x).map = s.map := rfl
@[simp] theorem State.withHookLog_disp : (s.withHookLog x).disp = s.disp := rfl
@[simp] theorem State.withHookLog_kbd : (s.withHookLog x).kbd = s.kbd := rfl
@[simp] theorem State.withHookLog_link : (s.withHookLog x).link = s.link := rfl
@[simp] theorem State.withHookLog_ctr : (s.withHookLog x).ctr = s.ctr := rfl
@[simp] theorem State.withHookLog_buttons : (s.withHookLog x).buttons = s.buttons := rfl
@[simp] theorem State.withHookLog_pollFeed : (s.withHookLog x).pollFeed = s.pollFeed := rfl
@[simp] theorem State.withHookLog_inFrame : (s.withHookLog x).inFrame = s.inFrame := rfl
@[simp] theorem State.withHookLog_pending : (s.withHookLog x).pending = s.pending := rfl
@[simp] theorem State.withHookLog_disposed : (s.withHookLog x).disposed = s.disposed := rfl
@[simp] theorem State.withHookLog_delivered : (s.withHookLog x).delivered = s.delivered := rfl
@[simp] theorem State.withHookLog_hookLog : (s.withHookLog x).hookLog = x := rfl
@[simp] theorem State.withHookLog_reply : (s.withHookLog x).reply = s.reply := rfl

end WithHookLog

section WithReply

variable (s : State) (x : Reply)

@[simp] theorem State.withReply_cfg : (s.withReply x).cfg = s.cfg := rfl
@[simp] theorem State.withReply_startPc : (s.withReply x).startPc = s.startPc := rfl
@[simp] theorem State.withReply_hooks : (s.withReply x).hooks = s.hooks := rfl
@[simp] theorem State.withReply_engine : (s.withReply x).engine = s.engine := rfl
@[simp] theorem State.withReply_cpu : (s.withReply x).cpu = s.cpu := rfl
@[simp] theorem State.withReply_irqLine : (s.withReply x).irqLine = s.irqLine := rfl
@[simp] theorem State.withReply_nmiLine : (s.withReply x).nmiLine = s.nmiLine := rfl
@[simp] theorem State.withReply_rom : (s.withReply x).rom = s.rom := rfl
@[simp] theorem State.withReply_ram : (s.withReply x).ram = s.ram := rfl
@[simp] theorem State.withReply_vram : (s.withReply x).vram = s.vram := rfl
@[simp] theorem State.withReply_map : (s.withReply x).map = s.map := rfl
@[simp] theorem State.withReply_disp : (s.withReply x).disp = s.disp := rfl
@[simp] theorem State.withReply_kbd : (s.withReply x).kbd = s.kbd := rfl
@[simp] theorem State.withReply_link : (s.withReply x).link = s.link := rfl
@[simp] theorem State.withReply_ctr : (s.withReply x).ctr = s.ctr := rfl
@[simp] theorem State.withReply_buttons : (s.withReply x).buttons = s.buttons := rfl
@[simp] theorem State.withReply_pollFeed : (s.withReply x).pollFeed = s.pollFeed := rfl
@[simp] theorem State.withReply_inFrame : (s.withReply x).inFrame = s.inFrame := rfl
@[simp] theorem State.withReply_pending : (s.withReply x).pending = s.pending := rfl
@[simp] theorem State.withReply_disposed : (s.withReply x).disposed = s.disposed := rfl
@[simp] theorem State.withReply_delivered : (s.withReply x).delivered = s.delivered := rfl
@[simp] theorem State.withReply_hookLog : (s.withReply x).hookLog = s.hookLog := rfl
@[simp] theorem State.withReply_reply : (s.withReply x).reply = x := rfl

end WithReply

section Deliver

variable (s : State) (v : Byte)

@[simp] theorem State.deliver_cfg : (s.deliver v).cfg = s.cfg := rfl
@[simp] theorem State.deliver_startPc : (s.deliver v).startPc = s.startPc := rfl
@[simp] theorem State.deliver_hooks : (s.deliver v).hooks = s.hooks := rfl
@[simp] theorem State.deliver_engine : (s.deliver v).engine = s.engine := rfl
@[simp] theorem State.deliver_cpu : (s.deliver v).cpu = s.cpu := rfl
@[simp] theorem State.deliver_irqLine : (s.deliver v).irqLine = s.irqLine := rfl
@[simp] theorem State.deliver_nmiLine : (s.deliver v).nmiLine = s.nmiLine := rfl
@[simp] theorem State.deliver_rom : (s.deliver v).rom = s.rom := rfl
@[simp] theorem State.deliver_ram : (s.deliver v).ram = s.ram := rfl
@[simp] theorem State.deliver_vram : (s.deliver v).vram = s.vram := rfl
@[simp] theorem State.deliver_map : (s.deliver v).map = s.map := rfl
@[simp] theorem State.deliver_disp : (s.deliver v).disp = s.disp := rfl
@[simp] theorem State.deliver_kbd : (s.deliver v).kbd = s.kbd := rfl
@[simp] theorem State.deliver_link : (s.deliver v).link = s.link := rfl
@[simp] theorem State.deliver_ctr : (s.deliver v).ctr = s.ctr := rfl
@[simp] theorem State.deliver_buttons : (s.deliver v).buttons = s.buttons := rfl
@[simp] theorem State.deliver_pollFeed : (s.deliver v).pollFeed = s.pollFeed := rfl
@[simp] theorem State.deliver_inFrame : (s.deliver v).inFrame = s.inFrame := rfl
@[simp] theorem State.deliver_pending : (s.deliver v).pending = s.pending := rfl
@[simp] theorem State.deliver_disposed : (s.deliver v).disposed = s.disposed := rfl
@[simp] theorem State.deliver_delivered : (s.deliver v).delivered = s.delivered ++ [v] := rfl
@[simp] theorem State.deliver_hookLog : (s.deliver v).hookLog = s.hookLog := rfl
@[simp] theorem State.deliver_reply : (s.deliver v).reply = s.reply := rfl

end Deliver

end Sys2Proof.Machine
end

