-- ==== Sys2Proof/Laws/Ops.lean ====
section
/-! SUPPORT. One lemma per shared operation that says once everything it can do: the provers cite these instead of unfolding
the operation. -/

namespace Sys2Proof.Machine

variable {s t : State}

/-! Sequencing. -/

@[simp] theorem andThen_next (f : State → Result) : andThen (.next s) f = f s := rfl

@[simp] theorem andThen_fault (e : Fault) (f : State → Result) : andThen (.fault e) f = .fault e := rfl

@[simp] theorem andThen_refused (e : Refusal) (f : State → Result) : andThen (.refused e) f = .refused e := rfl

theorem andThen_eq_next {r : Result} {f : State → Result} :
    andThen r f = .next t ↔ ∃ u, r = .next u ∧ f u = .next t := by
  cases r <;> simp [andThen]

theorem andThen_eq_fault {r : Result} {f : State → Result} {e : Fault} :
    andThen r f = .fault e ↔ r = .fault e ∨ ∃ u, r = .next u ∧ f u = .fault e := by
  cases r <;> simp [andThen]

theorem andThen_eq_refused {r : Result} {f : State → Result} {e : Refusal} :
    andThen r f = .refused e ↔ r = .refused e ∨ ∃ u, r = .next u ∧ f u = .refused e := by
  cases r <;> simp [andThen]

/-! Hooks: each is at most one entry of the log, and for the poll hook what the host does with the buttons. -/

theorem notifyRead_eq (a : Nat) :
    s.notifyRead a = s.withHookLog (if s.hooks.read then s.hookLog ++ [.read a] else s.hookLog) := by
  unfold State.notifyRead
  split <;> rfl

theorem notifyWrite_eq (a : Nat) :
    s.notifyWrite a = s.withHookLog (if s.hooks.write then s.hookLog ++ [.write a] else s.hookLog) := by
  unfold State.notifyWrite
  split <;> rfl

theorem pollHook_cases :
    (s.hooks.poll = false ∧ s.pollHook = s) ∨
    (s.hooks.poll = true ∧ s.pollFeed = [] ∧ s.pollHook = s.withHookLog (s.hookLog ++ [.poll])) ∨
    (∃ names rest, s.hooks.poll = true ∧ s.pollFeed = names :: rest ∧
      s.pollHook = ((s.withHookLog (s.hookLog ++ [.poll])).withPollFeed rest).holdButtons names) := by
  unfold State.pollHook
  by_cases h : s.hooks.poll = true
  · rw [if_pos h]
    cases hf : s.pollFeed with
    | nil => exact .inr (.inl ⟨h, rfl, by simp⟩)
    | cons names rest => exact .inr (.inr ⟨names, rest, h, rfl, by simp⟩)
  · rw [if_neg h]
    exact .inl ⟨by simpa using h, rfl⟩

/-! Memory transactions: both always complete. -/

theorem readMemory_eq (a : Nat) :
    readMemory a s = .next ((s.withHookLog (if s.hooks.read then s.hookLog ++ [.read a] else s.hookLog)).deliver
      (s.memByte a)) := by
  rw [readMemory, notifyRead_eq]

/-- The RAM after a `MEMWR`. -/
def State.ramAfter (s : State) (a : Nat) (v : Byte) : Memory :=
  match s.storeOffset a with
  | some off => Memory.write ramFill s.ram off v
  | none => s.ram

theorem writeMemory_eq (a : Nat) (v : Byte) :
    writeMemory a v s = .next ((s.withRam (s.ramAfter a v)).withHookLog
      (if s.hooks.write then s.hookLog ++ [.write a] else s.hookLog)) := by
  unfold writeMemory State.ramAfter
  cases s.storeOffset a <;> simp [notifyWrite_eq, State.setRamByte] <;> rfl

/-- Where a store goes: to the offset in RAM, and nowhere else. -/
theorem storeOffset_eq_some {a : Nat} {off : Nat} (h : s.storeOffset a = some off) :
    off = a - s.cfg.ramBase ∧ off < s.cfg.ramSize ∧ s.cfg.lowEnd ≤ a ∧ s.cfg.ramBase ≤ a := by
  unfold State.storeOffset at h
  split at h
  · cases h
  · split at h
    · cases h
    · split at h
      · cases h
        omega
      · cases h

/-- The RAM after a `MEMWR` is canonical and within its size if it was before. -/
theorem ramAfter_wf (a : Nat) (v : Byte) (h : Memory.wf ramFill s.ram = true)
    (hb : Memory.below s.cfg.ramSize s.ram = true) :
    Memory.wf ramFill (s.ramAfter a v) = true ∧ Memory.below s.cfg.ramSize (s.ramAfter a v) = true := by
  unfold State.ramAfter
  split
  · rename_i off hoff
    exact ⟨Memory.wf_write h off v, Memory.below_write hb (storeOffset_eq_some hoff).2.1 v⟩
  · exact ⟨h, hb⟩

/-! The display. -/

/-- A display command changes the display registers at most. -/
theorem dispCommand_cases (c : Byte) : ∃ d, dispCommand c s = .next (s.withDisp d) := by
  unfold dispCommand
  repeat' split
  all_goals exact ⟨_, rfl⟩

/-- A data read: the stale read, or a byte with a cursor move, or the fault. -/
theorem dispDataRead_cases :
    (s.disp.moved = true ∧ dispDataRead s = .next (staleRead s)) ∨
    (s.disp.moved = false ∧ ∃ v, dispDataRead s = .next (s.moveCursor.deliver v)) ∨
    (s.disp.moved = false ∧ s.cfg.vramOob = .stop ∧ dispDataRead s = .fault .vramRange) := by
  unfold dispDataRead
  split
  · exact .inl ⟨by assumption, rfl⟩
  · rename_i hm
    have hm : s.disp.moved = false := by simpa using hm
    refine .inr ?_
    cases ho : s.cfg.vramOob <;> unfold readMode1 readMode0 vramOobRead <;> simp only [ho] <;> repeat' split
    all_goals first
      | exact .inl ⟨hm, _, rfl⟩
      | exact .inr ⟨hm, trivial, rfl⟩

theorem staleRead_eq :
    ∃ d, staleRead s = (s.withDisp d).deliver 0x00 := by
  unfold staleRead
  cases s.cfg.staleReadAdvances
  · exact ⟨_, rfl⟩
  · exact ⟨_, rfl⟩

/-- A data write: VRAM and the cursor, or the fault. -/
theorem dispDataWrite_cases (v : Byte) :
    (∃ m, dispDataWrite v s = .next ((s.withVram m).moveCursor)) ∨
    (s.disp.mode = 1 ∧ s.cfg.vramOob = .stop ∧ vramSize ≤ s.disp.offset1 ∧ dispDataWrite v s = .fault .vramRange) := by
  unfold dispDataWrite writeMode1 writeMode0 vramOobWrite State.putCell0
  split
  · split
    · cases ho : s.cfg.vramOob
      · exact .inr ⟨by assumption, rfl, by assumption, by simp⟩
      · exact .inl ⟨s.vram, by simp; rfl⟩
    · exact .inl ⟨_, rfl⟩
  · refine .inl ?_
    simp only
    repeat' split
    · exact ⟨_, rfl⟩
    · exact ⟨_, rfl⟩
    · exact ⟨s.vram, rfl⟩

/-- VRAM after a mode-0 write is canonical and within its size if it was before. -/
theorem putCell0_wf (v : Byte) (h : Memory.wf vramFill s.vram = true) (hb : Memory.below vramSize s.vram = true) :
    Memory.wf vramFill (s.putCell0 v).vram = true ∧ Memory.below vramSize (s.putCell0 v).vram = true := by
  unfold State.putCell0
  simp only
  split
  · rename_i hoff
    split
    · rename_i hsp
      exact ⟨Memory.wf_write (Memory.wf_write h _ _) _ _, Memory.below_write (Memory.below_write hb hoff _) hsp.2 _⟩
    · exact ⟨Memory.wf_write h _ _, Memory.below_write hb hoff _⟩
  · exact ⟨h, hb⟩

/-! The link, seen from State. -/

theorem tick_eq_next : tick s = .next t ↔ ∃ l, s.link.tick s.cfg = .ok l ∧ t = s.withLink l := by
  unfold tick
  cases s.link.tick s.cfg <;> simp [eq_comm]

theorem tick_eq_fault {e : Fault} : tick s = .fault e ↔ s.link.tick s.cfg = .error e := by
  unfold tick
  cases s.link.tick s.cfg <;> simp

/-! The Dispatcher. -/

theorem serve_of_fits {t' : Transaction} (h : t'.fits s.cfg = true) : serve t' s = dispatch t' s := by
  rw [serve, if_pos h]

theorem serve_of_not_fits {t' : Transaction} (h : t'.fits s.cfg = false) : serve t' s = .fault .noSuchAddress := by
  rw [serve, if_neg (by simp [h])]

/-- Every machine has port 0. -/
theorem fits_port0 (p : Params) (v : Byte) :
    Transaction.fits p (.iord 0) = true ∧ Transaction.fits p (.iowr 0 v) = true := by
  simp [Transaction.fits]

/-! Frames. -/

theorem runEngine_bus (t' : Transaction) (r : EngineRun) (last : Option Byte) :
    runEngine (.bus t' r) last s = andThen (serve t' s) fun u => runEngine r (lastByte t' u last) u := rfl

/-- The induction over what the engine does in one run: what a change of its own state, an acknowledgement and a transaction
keep, a run keeps. -/
theorem runEngine_keeps {P : State → State → Prop} (hrefl : ∀ a, P a a)
    (htrans : ∀ a b c, P a b → P b c → P a c) (hcpu : ∀ a c, P a (a.withCpu c)) (hirq : ∀ a : State, P a a.acknowledgeIrq)
    (hbus : ∀ t' a b, serve t' a = .next b → P a b) (r : EngineRun) (last : Option Byte)
    (h : runEngine r last s = .next t) : P s t := by
  induction r generalizing s last with
  | done => cases h; exact hrefl _
  | compute c r ih => exact htrans _ _ _ (hcpu s c) (ih last h)
  | bus t' r ih =>
    rw [runEngine_bus] at h
    obtain ⟨u, hu, h⟩ := andThen_eq_next.1 h
    exact htrans _ _ _ (hbus t' s u hu) (ih _ h)
  | irqAck r ih => exact htrans _ _ _ (hirq s) (ih last h)
  | onByte v y n ihy ihn =>
    unfold runEngine at h
    split at h
    · exact ihy last h
    · exact ihn last h
  | onIrq y n ihy ihn =>
    unfold runEngine at h
    split at h
    · exact ihy last h
    · exact ihn last h

end Sys2Proof.Machine
end

