-- ==== Sys2Proof/Laws/Link.lean ====
section
/-! SUPPORT. The link: what a continuation and a tick can do to a session, said once. -/

open Sys2Proof Sys2Proof.Machine Sys2Proof.Safety

variable {p : Params} {l : Link}

/-- Between sessions nothing is required. -/
theorem Sys2Proof.Safety.Session.of_inactive (h : l.phase = .inactive) : Session l := by
  constructor <;> simp [h]

theorem Sys2Proof.Safety.Session.of_startReceive {bytes : List Byte} {c : Continuation} (hb : bytes ≠ [])
    (hc : c ≠ .sendVariableData) : Session (l.startReceive bytes c) := by
  constructor <;> simp [Link.startReceive, hb, hc]

theorem Sys2Proof.Safety.Session.of_startSend {n : BitVec 16} {c : Continuation} (hn : n ≠ 0)
    (hc : c = .sendVariableData → n = 8) : Session (l.startSend n c) := by
  refine ⟨by simp [Link.startSend], fun _ => hn, fun _ h => ?_, by simp [Link.startSend], by simp [Link.startSend]⟩
  have h : n = 8 := hc h
  simp [Link.startSend, h]

/-- A session inside a byte of a `Receive` phase. -/
theorem Sys2Proof.Safety.Session.of_receive (h : l.phase = .receive) (hc : l.cont ≠ .sendVariableData)
    (hr : 1 ≤ l.bits ∧ l.bits ≤ 8 ∧ 1 ≤ l.bitStep ∧ l.bitStep ≤ 5) : Session l := by
  constructor <;> simp [h, hc]
  exact hr

/-- A session inside a byte of a `Send` phase. -/
theorem Sys2Proof.Safety.Session.of_send (h : l.phase = .send) (hn : l.toSend ≠ 0)
    (h8 : l.cont = .sendVariableData → l.queue.length + l.toSend.toNat = 8)
    (hr : 1 ≤ l.bits ∧ l.bits ≤ 8 ∧ 1 ≤ l.bitStep ∧ l.bitStep ≤ 5) : Session l :=
  ⟨fun h' => by simp [h] at h', fun _ => hn, fun _ => h8, fun h' => by simp [h] at h', fun _ => hr⟩

/-- `send_next_file()`: no file, or the end of the file, or a request. -/
theorem Sys2Proof.Machine.Link.sendNextFile_cases (p : Params) (l : Link) :
    (l.file = none ∧ l.sendNextFile p = l) ∨
    (∃ f, l.file = some f ∧ f.remaining < 13 ∧ l.sendNextFile p = { l with file := none }) ∨
    (∃ f, l.file = some f ∧ 13 ≤ f.remaining ∧
      l.sendNextFile p = { l with
        file := some ((f.skip 13).skip (le16At (f.next 13) p.linkLenOffset.val + 2))
        hdr := f.next 13
        var := (f.skip 13).nextPadded (le16At (f.next 13) p.linkLenOffset.val + 2)
        active := true
        queue := requestPacket p (f.next 13)
        phase := .prepareReceive
        cont := .receiveReqAck }) := by
  unfold Link.sendNextFile
  cases hf : l.file with
  | none => exact .inl ⟨rfl, rfl⟩
  | some f =>
    refine .inr ?_
    by_cases h : f.remaining < 13
    · exact .inl ⟨f, rfl, h, by simp [h]⟩
    · exact .inr ⟨f, rfl, by omega, by simp [h, Link.startReceive]⟩

@[simp] theorem Sys2Proof.Machine.holdsField_eq_true (bytes : List Byte) (off : Nat) :
    holdsField bytes off = true ↔ off + 2 ≤ bytes.length := by
  simp [holdsField]

/-- What a container that passes validation meets (46_link_protocol.md R264). -/
theorem Sys2Proof.Machine.validateContainer_eq_none {p : Params} {bytes : List Byte} :
    validateContainer p bytes = none ↔
      let size := le16At bytes p.linkSizeOffset
      bytes.take 11 = p.linkMagic.toList ∧ p.linkDataStart ≤ bytes.length ∧ p.linkSizeOffset + 2 ≤ bytes.length ∧
        bytes.length = size + p.linkOverhead ∧ p.linkDataStart + size + 2 ≤ bytes.length ∧
        sum16 ((bytes.drop p.linkDataStart).take size) = le16At bytes (p.linkDataStart + size) := by
  have h11 : p.linkMagic.toList.length = 11 := by simp
  simp only [validateContainer, h11]
  constructor
  · intro h
    repeat' split at h
    all_goals simp_all
  · rintro ⟨h1, h2, h3, h4, h5, h6⟩
    rw [if_neg (not_not.2 h1), if_neg (by omega), if_neg (by simpa using h3), if_neg (not_not.2 h4),
      if_neg (by simpa using h5), if_neg (not_not.2 h6)]

theorem Sys2Proof.Machine.requestPacket_ne_nil (hdr : List Byte) : requestPacket p hdr ≠ [] := by
  simp [requestPacket, le16]

theorem Sys2Proof.Machine.dataPacket_ne_nil (var : List Byte) : dataPacket p var ≠ [] := by
  simp [dataPacket, le16]

theorem Sys2Proof.Machine.Link.sendNextFile_session (h : Session l) : Session (l.sendNextFile p) := by
  obtain ⟨-, h1⟩ | ⟨f, -, -, h1⟩ | ⟨f, -, -, h1⟩ := Link.sendNextFile_cases p l <;> rw [h1]
  · exact h
  · exact ⟨h.queued, h.expected, h.eight, h.fromSend, h.running⟩
  · constructor <;> simp [requestPacket_ne_nil]

theorem Sys2Proof.Machine.linkEnds_ne_nil (p : Params) : p.linkEot.toList ≠ [] ∧ p.linkOomAck.toList ≠ [] := by
  constructor <;> exact List.ne_nil_of_length_pos (by simp)

/-- A continuation run at the end of a phase: it meets no fault and leaves a session the rules make. -/
theorem Sys2Proof.Machine.Link.runContinuation_session (hi : l.phase = .inactive)
    (h8 : l.cont = .sendVariableData → 6 ≤ l.queue.length) :
    ∃ l', l.runContinuation p = .ok l' ∧ Session l' := by
  obtain ⟨heot, hoom⟩ := linkEnds_ne_nil p
  cases hc : l.cont with
  | none => exact ⟨l, by simp [Link.runContinuation, hc], .of_inactive hi⟩
  | receiveReqAck =>
    exact ⟨_, by simp only [Link.runContinuation, hc]; rfl, .of_startSend (by decide) (by simp)⟩
  | receiveDataAck =>
    exact ⟨_, by simp only [Link.runContinuation, hc]; rfl, .of_startSend (by decide) (by simp)⟩
  | endTransmission =>
    exact ⟨_, by simp only [Link.runContinuation, hc]; rfl, .of_startReceive heot (by simp)⟩
  | endOutOfMemory =>
    exact ⟨_, by simp only [Link.runContinuation, hc]; rfl, .of_startReceive hoom (by simp)⟩
  | finalize =>
    exact ⟨l.finalize p, by simp only [Link.runContinuation, hc], Link.sendNextFile_session (.of_inactive hi)⟩
  | test =>
    exact ⟨{ l with testCount := l.testCount + 1 }, by simp only [Link.runContinuation, hc], .of_inactive hi⟩
  | sendVariableData =>
    have h6 := h8 hc
    simp only [Link.runContinuation, hc, Link.sendVariableData]
    cases hq : l.queue.drop 5 with
    | nil =>
      have := congrArg List.length hq
      simp at this
      omega
    | cons b rest =>
      simp only
      split
      · exact ⟨_, rfl, .of_startSend (by decide) (by simp)⟩
      · exact ⟨_, rfl, .of_startReceive (dataPacket_ne_nil _) (by simp)⟩

/-- A step of a `Receive` phase keeps the session. -/
theorem Sys2Proof.Machine.Link.receiveStep_session (h : Session l) (hph : l.phase = .receive) :
    ∃ l', l.receiveStep p = .ok l' ∧ Session l' := by
  have hr := h.running (.inl hph)
  have hs := h.fromSend (.inr hph)
  unfold Link.receiveStep
  split
  · exact ⟨_, rfl, .of_receive hph hs ⟨hr.1, hr.2.1, Nat.le_of_ble_eq_true rfl, Nat.le_of_ble_eq_true rfl⟩⟩
  · split
    · refine ⟨_, rfl, ?_⟩
      unfold Link.receiveAwaitAck
      split
      · exact .of_receive hph hs ⟨hr.1, hr.2.1, Nat.le_of_ble_eq_true rfl, Nat.le_of_ble_eq_true rfl⟩
      · exact h
    · split
      · exact ⟨_, rfl, .of_receive hph hs ⟨hr.1, hr.2.1, Nat.le_of_ble_eq_true rfl, Nat.le_of_ble_eq_true rfl⟩⟩
      · split
        · refine ⟨_, rfl, ?_⟩
          unfold Link.receiveAwaitIdle
          split
          · exact .of_receive hph hs ⟨hr.1, hr.2.1, Nat.le_of_ble_eq_true rfl, Nat.le_of_ble_eq_true rfl⟩
          · exact h
        · split
          · unfold Link.receiveCount
            simp only
            split
            · split
              · rename_i hq
                exact ⟨_, rfl, ⟨fun _ => hq, by simp, by simp, fun _ => hs, by simp⟩⟩
              · exact Link.runContinuation_session rfl fun hc => absurd hc hs
            · exact ⟨_, rfl, .of_receive hph hs ⟨by simp only at *; omega, by simp only; omega, Nat.le_of_ble_eq_true rfl, Nat.le_of_ble_eq_true rfl⟩⟩
          · exact ⟨_, rfl, h⟩

/-- A step of a `Send` phase keeps the session. -/
theorem Sys2Proof.Machine.Link.sendStep_session (h : Session l) (hph : l.phase = .send) :
    ∃ l', l.sendStep p = .ok l' ∧ Session l' := by
  have hr := h.running (.inr hph)
  have he := h.expected (.inr hph)
  have h8 := h.eight (.inr hph)
  unfold Link.sendStep
  split
  · refine ⟨_, rfl, ?_⟩
    unfold Link.sendCapture
    split
    · exact .of_send hph he h8 ⟨hr.1, hr.2.1, Nat.le_of_ble_eq_true rfl, Nat.le_of_ble_eq_true rfl⟩
    · exact h
  · split
    · exact ⟨_, rfl, .of_send hph he h8 ⟨hr.1, hr.2.1, Nat.le_of_ble_eq_true rfl, Nat.le_of_ble_eq_true rfl⟩⟩
    · split
      · refine ⟨_, rfl, ?_⟩
        unfold Link.sendAwaitRelease
        split
        · exact .of_send hph he h8 ⟨hr.1, hr.2.1, Nat.le_of_ble_eq_true rfl, Nat.le_of_ble_eq_true rfl⟩
        · exact h
      · split
        · exact ⟨_, rfl, .of_send hph he h8 ⟨hr.1, hr.2.1, Nat.le_of_ble_eq_true rfl, Nat.le_of_ble_eq_true rfl⟩⟩
        · split
          · unfold Link.sendCount
            simp only
            split
            · split
              · rename_i hn
                refine ⟨_, rfl, ?_⟩
                have hn' : 0 < (l.toSend - 1).toNat := hn
                constructor <;> simp
                · intro h0
                  simp [h0] at hn'
                · intro hc
                  have := h8 hc
                  have : (l.toSend - 1).toNat = l.toSend.toNat - 1 := by
                    have : l.toSend.toNat ≠ 0 := fun h0 => he (BitVec.eq_of_toNat_eq h0)
                    rw [BitVec.toNat_sub_of_le (by simp [BitVec.le_def]; omega)]
                    rfl
                  omega
              · rename_i hn
                refine Link.runContinuation_session rfl fun hc => ?_
                have h8' := h8 hc
                have hz : (l.toSend - 1).toNat = 0 := by
                  have : ¬ 0 < (l.toSend - 1).toNat := hn
                  omega
                have : l.toSend.toNat = 1 := by
                  have : l.toSend.toNat ≠ 0 := fun h0 => he (BitVec.eq_of_toNat_eq h0)
                  rw [BitVec.toNat_sub_of_le (by simp [BitVec.le_def]; omega)] at hz
                  simp at hz
                  omega
                simp
                omega
            · exact ⟨_, rfl, .of_send hph he h8 ⟨by simp only at *; omega, by simp only; omega, Nat.le_of_ble_eq_true rfl, Nat.le_of_ble_eq_true rfl⟩⟩
          · exact ⟨_, rfl, h⟩

/-- A tick of a session the rules make meets no fault and leaves such a session. -/
theorem Sys2Proof.Machine.Link.tick_session (h : Session l) : ∃ l', l.tick p = .ok l' ∧ Session l' := by
  unfold Link.tick
  cases hph : l.phase with
  | inactive => exact ⟨l, rfl, h⟩
  | receive => exact Link.receiveStep_session h hph
  | send => exact Link.sendStep_session h hph
  | prepareReceive =>
    cases hq : l.queue with
    | nil => exact absurd hq (h.queued hph)
    | cons b rest =>
      have hs : Session (l.prepareReceive b rest) :=
        .of_receive rfl (h.fromSend (.inl hph)) ⟨Nat.le_of_ble_eq_true rfl, Nat.le_of_ble_eq_true rfl, Nat.le_of_ble_eq_true rfl,
        Nat.le_of_ble_eq_true rfl⟩
      simp only
      split
      · exact Link.receiveStep_session hs rfl
      · exact ⟨_, rfl, hs⟩
  | prepareSend =>
    have hs : Session l.prepareSend :=
      .of_send rfl (h.expected (.inl hph)) (h.eight (.inl hph)) ⟨Nat.le_of_ble_eq_true rfl, Nat.le_of_ble_eq_true rfl, Nat.le_of_ble_eq_true rfl,
        Nat.le_of_ble_eq_true rfl⟩
    simp only
    split
    · split
      · exact Link.sendStep_session hs rfl
      · exact ⟨_, rfl, hs⟩
    · exact ⟨l, rfl, h⟩

/-- What the machine's own write to `link_out` does to a session: nothing. -/
theorem Sys2Proof.Safety.Session.of_lineOut (h : Session l) (v : BitVec 2) : Session { l with lineOut := v } :=
  ⟨h.queued, h.expected, h.eight, h.fromSend, h.running⟩
end

