-- ==== Sys2Proof/Laws/Bus.lean ====
section
/-! SUPPORT. What a bus transaction can do, said once: port 0 reaches the link and `bank_high`; every other transaction
leaves the link and everything the bus cannot reach as it is. -/

namespace Sys2Proof.Machine

open Sys2Proof.Safety

/-- A row group toggles bit `b` once for each pressed button that it maps to it (44_input_mux.md R221 (c)). -/
theorem muxGroup_getLsbD (s : State) (group : List (Line × Nat)) (acc : Byte) (b : Nat) (hb : b < 8) :
    (muxGroup s group acc).getLsbD b =
      (acc.getLsbD b ^^ decide (group.countP (fun e => s.btn e.1 && decide (e.2 = b)) % 2 = 1)) := by
  induction group generalizing acc with
  | nil => simp [muxGroup]
  | cons e rest ih =>
    rw [muxGroup, ih, List.countP_cons]
    by_cases h1 : s.btn e.1 = true <;> by_cases h2 : e.2 = b
    · have hodd : ∀ n : Nat, decide ((n + 1) % 2 = 1) = !decide (n % 2 = 1) := fun n => by
        rw [← decide_not]; exact decide_eq_decide.2 (by omega)
      simp [h1, h2, hb, hodd]
    · have : ((1#8 <<< e.2).getLsbD b) = false := by
        simp [hb]; omega
      simp [h1, h2, this]
    · simp [h1]
    · simp [h1]

/-- `u` differs from `s` at most in what a transaction of another port than 0 can reach. -/
def Quiet (s u : State) : Prop :=
  u = { s with
    ram := u.ram, vram := u.vram, map := u.map, disp := u.disp, kbd := u.kbd,
    ctr := { s.ctr with lagFlag := u.ctr.lagFlag }, buttons := u.buttons, pollFeed := u.pollFeed,
    delivered := u.delivered, hookLog := u.hookLog }

theorem Quiet.link {s u : State} (h : Quiet s u) : u.link = s.link := by rw [h]

theorem Quiet.cfg {s u : State} (h : Quiet s u) : u.cfg = s.cfg := by rw [h]

theorem Quiet.engine {s u : State} (h : Quiet s u) : u.engine = s.engine := by rw [h]

theorem Quiet.rom {s u : State} (h : Quiet s u) : u.rom = s.rom := by rw [h]

theorem execIord1_quiet (s : State) : ∃ u, execIord1 s = .next u ∧ Quiet s u := by
  unfold execIord1
  obtain ⟨-, h⟩ | ⟨-, -, h⟩ | ⟨names, rest, -, -, h⟩ := pollHook_cases (s := s.clearLagFlag) <;> rw [h] <;>
    exact ⟨_, rfl, rfl⟩

theorem dispDataRead_quiet (s : State) :
    (∃ u, dispDataRead s = .next u ∧ Quiet s u) ∨ (s.cfg.vramOob = .stop ∧ dispDataRead s = .fault .vramRange) := by
  obtain ⟨-, h⟩ | ⟨-, v, h⟩ | ⟨-, ho, h⟩ := dispDataRead_cases (s := s)
  · obtain ⟨d, hd⟩ := staleRead_eq (s := s)
    exact .inl ⟨_, h, by rw [hd]; rfl⟩
  · exact .inl ⟨_, h, rfl⟩
  · exact .inr ⟨ho, h⟩

theorem dispDataWrite_quiet (v : Byte) (s : State) :
    (∃ u, dispDataWrite v s = .next u ∧ Quiet s u) ∨ (s.cfg.vramOob = .stop ∧ dispDataWrite v s = .fault .vramRange) := by
  obtain ⟨m, h⟩ | ⟨-, ho, -, h⟩ := dispDataWrite_cases (s := s) v
  · exact .inl ⟨_, h, rfl⟩
  · exact .inr ⟨ho, h⟩

theorem dispCommand_quiet (v : Byte) (s : State) : ∃ u, dispCommand v s = .next u ∧ Quiet s u := by
  obtain ⟨d, h⟩ := dispCommand_cases (s := s) v
  exact ⟨_, h, rfl⟩

/-- A read of another port than 0. -/
theorem portRead_quiet (p : Nat) (hp : p ≠ 0) (s : State) :
    (∃ u, portRead p s = .next u ∧ Quiet s u) ∨
    (p = 17 ∧ s.cfg.vramOob = .stop ∧ portRead p s = .fault .vramRange) := by
  unfold portRead
  rw [if_neg hp]
  split
  · exact .inl (execIord1_quiet s)
  split
  · exact .inl ⟨_, rfl, rfl⟩
  split
  · exact .inl ⟨_, rfl, rfl⟩
  split
  · exact .inl ⟨_, rfl, rfl⟩
  split
  · exact .inl ⟨_, rfl, rfl⟩
  split
  · rename_i h17
    obtain h | ⟨ho, h⟩ := dispDataRead_quiet s
    · exact .inl h
    · exact .inr ⟨h17, ho, h⟩
  · exact .inl ⟨_, rfl, rfl⟩

/-- A write to another port than 0. -/
theorem portWrite_quiet (p : Nat) (hp : p ≠ 0) (v : Byte) (s : State) :
    (∃ u, portWrite p v s = .next u ∧ Quiet s u) ∨
    (p = 17 ∧ s.cfg.vramOob = .stop ∧ portWrite p v s = .fault .vramRange) := by
  unfold portWrite
  rw [if_neg hp]
  split
  · exact .inl ⟨_, rfl, rfl⟩
  split
  · exact .inl ⟨_, rfl, rfl⟩
  split
  · exact .inl ⟨_, rfl, rfl⟩
  split
  · exact .inl ⟨_, rfl, rfl⟩
  split
  · exact .inl (dispCommand_quiet v s)
  split
  · rename_i h17
    obtain h | ⟨ho, h⟩ := dispDataWrite_quiet v s
    · exact .inl h
    · exact .inr ⟨h17, ho, h⟩
  · exact .inl ⟨_, rfl, rfl⟩

/-- A read of port 0: a tick and the value after it. -/
theorem execIord0_eq {s : State} {l : Link} (h : s.link.tick s.cfg = .ok l) :
    execIord0 s = .next ((s.withLink l).deliver (s.withLink l).port0Value) := by
  unfold execIord0 tick
  rw [h]
  rfl

/-- A write to port 0: nothing, the registers, or the registers and a tick. -/
theorem execIowr0_cases (v : Byte) (s : State) :
    execIowr0 v s = .next s ∨ execIowr0 v s = .next (s.loadPort0 v) ∨ execIowr0 v s = tick (s.loadPort0 v) := by
  unfold execIowr0
  split
  · exact .inl rfl
  · split
    · exact .inr (.inr rfl)
    · exact .inr (.inl rfl)

/-- The transaction accesses port 0. -/
def onPort0 (t : Transaction) : Bool :=
  match t with
  | .iord p => decide (p = 0)
  | .iowr p _ => decide (p = 0)
  | .memrd _ => false
  | .memwr _ _ => false

/-- Everything a transaction that is not on port 0 can do. -/
theorem dispatch_quiet (t : Transaction) (h0 : onPort0 t = false) (s : State) :
    (∃ u, dispatch t s = .next u ∧ Quiet s u) ∨ (s.cfg.vramOob = .stop ∧ dispatch t s = .fault .vramRange) := by
  cases t with
  | memrd a => exact .inl ⟨_, readMemory_eq a, rfl⟩
  | memwr a v => exact .inl ⟨_, writeMemory_eq a v, rfl⟩
  | iord p =>
    obtain h | ⟨-, ho, h⟩ := portRead_quiet p (by simpa [onPort0] using h0) s
    · exact .inl h
    · exact .inr ⟨ho, h⟩
  | iowr p v =>
    obtain h | ⟨-, ho, h⟩ := portWrite_quiet p (by simpa [onPort0] using h0) v s
    · exact .inl h
    · exact .inr ⟨ho, h⟩

/-- Everything a transaction on port 0 can do in a session the rules make: it completes, with a session the rules make. -/
theorem dispatch_port0 (t : Transaction) (h0 : onPort0 t = true) (s : State) (hs : Session s.link) :
    ∃ u, dispatch t s = .next u ∧ Session u.link ∧
      u = { s with map := u.map, link := u.link, delivered := u.delivered } := by
  cases t with
  | memrd a => cases h0
  | memwr a v => cases h0
  | iord p =>
    have hp : p = 0 := by simpa [onPort0] using h0
    subst hp
    obtain ⟨l, hl, hs'⟩ := Link.tick_session (p := s.cfg) hs
    exact ⟨_, execIord0_eq hl, hs', rfl⟩
  | iowr p v =>
    have hp : p = 0 := by simpa [onPort0] using h0
    subst hp
    have hs' : Session (s.loadPort0 v).link := Session.of_lineOut hs _
    obtain h | h | h := execIowr0_cases v s
    · exact ⟨_, h, hs, rfl⟩
    · exact ⟨_, h, hs', rfl⟩
    · obtain ⟨l, hl, hsl⟩ := Link.tick_session (p := s.cfg) (l := (s.loadPort0 v).link) hs'
      exact ⟨_, h.trans (tick_eq_next.2 ⟨l, hl, rfl⟩), hsl, rfl⟩

/-- A transaction in a session the rules make completes with such a session, or meets the fault of VRAM, or names an address the
machine does not have. -/
theorem serve_sound (t : Transaction) (s : State) (hs : Sound s) :
    (∃ u, serve t s = .next u ∧ Sound u ∧ u.cfg = s.cfg ∧ u.engine = s.engine) ∨
    (s.cfg.vramOob = .stop ∧ serve t s = .fault .vramRange) ∨
    (t.fits s.cfg = false ∧ serve t s = .fault .noSuchAddress) := by
  cases hf : t.fits s.cfg with
  | false => exact .inr (.inr ⟨rfl, serve_of_not_fits hf⟩)
  | true =>
    rw [serve_of_fits hf]
    cases h0 : onPort0 t with
    | true =>
      obtain ⟨u, h, hl, hu⟩ := dispatch_port0 t h0 s hs.session
      have hc : u.cfg = s.cfg := by rw [hu]
      exact .inl ⟨u, h, ⟨hc ▸ hs.params, hl⟩, hc, by rw [hu]⟩
    | false =>
      obtain ⟨u, h, hq⟩ | h := dispatch_quiet t h0 s
      · exact .inl ⟨u, h, ⟨hq.cfg ▸ hs.params, hq.link ▸ hs.session⟩, hq.cfg, hq.engine⟩
      · exact .inr (.inl h)

/-- So does a run of the engine. -/
theorem runEngine_sound (r : EngineRun) (last : Option Byte) (s : State) (hs : Sound s) :
    (∃ u, runEngine r last s = .next u ∧ Sound u ∧ u.cfg = s.cfg ∧ u.engine = s.engine) ∨
    (s.cfg.vramOob = .stop ∧ runEngine r last s = .fault .vramRange) ∨
    (runFits s.cfg r = false ∧ runEngine r last s = .fault .noSuchAddress) := by
  induction r generalizing s last with
  | done => exact .inl ⟨s, rfl, hs, rfl, rfl⟩
  | compute c r ih => exact ih last (s.withCpu c) ⟨hs.params, hs.session⟩
  | irqAck r ih => exact ih last s.acknowledgeIrq ⟨hs.params, hs.session⟩
  | bus t r ih =>
    rw [runEngine_bus]
    obtain ⟨u, hu, hsu, hcu, heu⟩ | ⟨ho, hu⟩ | ⟨hf, hu⟩ := serve_sound t s hs
    · rw [hu, andThen_next]
      obtain ⟨w, hw, hsw, hcw, hew⟩ | ⟨ho, hw⟩ | ⟨hf, hw⟩ := ih (lastByte t u last) u hsu
      · exact .inl ⟨w, hw, hsw, hcw.trans hcu, hew.trans heu⟩
      · exact .inr (.inl ⟨hcu ▸ ho, hw⟩)
      · exact .inr (.inr ⟨by rw [runFits, ← hcu, hf, Bool.and_false], hw⟩)
    · rw [hu]
      exact .inr (.inl ⟨ho, rfl⟩)
    · rw [hu]
      exact .inr (.inr ⟨by rw [runFits, hf, Bool.false_and], rfl⟩)
  | onByte v y n ihy ihn =>
    unfold runEngine
    split
    · obtain h | h | ⟨hf, h⟩ := ihy last s hs
      · exact .inl h
      · exact .inr (.inl h)
      · exact .inr (.inr ⟨by rw [runFits, hf, Bool.false_and], h⟩)
    · obtain h | h | ⟨hf, h⟩ := ihn last s hs
      · exact .inl h
      · exact .inr (.inl h)
      · exact .inr (.inr ⟨by rw [runFits, hf, Bool.and_false], h⟩)
  | onIrq y n ihy ihn =>
    unfold runEngine
    split
    · obtain h | h | ⟨hf, h⟩ := ihy last s hs
      · exact .inl h
      · exact .inr (.inl h)
      · exact .inr (.inr ⟨by rw [runFits, hf, Bool.false_and], h⟩)
    · obtain h | h | ⟨hf, h⟩ := ihn last s hs
      · exact .inl h
      · exact .inr (.inl h)
      · exact .inr (.inr ⟨by rw [runFits, hf, Bool.and_false], h⟩)

/-- So does a burst. -/
theorem burst_sound (s : State) (hs : Sound s) :
    (∃ u, burst s = .next u ∧ Sound u ∧ u.cfg = s.cfg ∧ u.engine = s.engine) ∨
    (s.cfg.vramOob = .stop ∧ burst s = .fault .vramRange) ∨
    (runFits s.cfg (engineRun s.engine s.cpu s.cfg.cyclesPerBurst) = false ∧ burst s = .fault .noSuchAddress) := by
  unfold burst executeCycles
  obtain ⟨u, hu, hsu, hcu, heu⟩ | ⟨ho, hu⟩ | ⟨hf, hu⟩ := runEngine_sound (engineRun s.sampleOn.engine s.sampleOn.cpu
    s.cfg.cyclesPerBurst) none s.sampleOn ⟨hs.params, hs.session⟩
  · rw [hu, andThen_next]
    exact .inl ⟨_, rfl, ⟨hsu.params, hsu.session⟩, hcu, heu⟩
  · rw [hu, andThen_fault]
    exact .inr (.inl ⟨ho, rfl⟩)
  · rw [hu, andThen_fault]
    exact .inr (.inr ⟨hf, rfl⟩)

/-- With an engine that fits the machine the bursts of a frame complete, or meet the fault of VRAM. -/
theorem bursts_sound (n : Nat) (s : State) (hs : Sound s) (hf : EngineFits s.engine s.cfg) :
    (∃ u, bursts n s = .next u ∧ Sound u ∧ u.cfg = s.cfg ∧ u.engine = s.engine) ∨
    (s.cfg.vramOob = .stop ∧ bursts n s = .fault .vramRange) := by
  induction n generalizing s with
  | zero => exact .inl ⟨s, rfl, hs, rfl, rfl⟩
  | succ n ih =>
    show (∃ u, andThen (burst s) (bursts n) = .next u ∧ _) ∨ _ ∧ andThen (burst s) (bursts n) = _
    obtain ⟨u, hu, hsu, hcu, heu⟩ | ⟨ho, hu⟩ | ⟨hn, -⟩ := burst_sound s hs
    · rw [hu, andThen_next]
      obtain ⟨w, hw, hsw, hcw, hew⟩ | ⟨ho, hw⟩ := ih u hsu (by rw [heu, hcu]; exact hf)
      · exact .inl ⟨w, hw, hsw, hcw.trans hcu, hew.trans heu⟩
      · exact .inr ⟨hcu ▸ ho, hw⟩
    · rw [hu]
      exact .inr ⟨ho, rfl⟩
    · rw [hf] at hn
      cases hn

end Sys2Proof.Machine
end

