-- ==== Sys2Proof/Laws/Operands.lean ====
section
/-! SUPPORT. The operand forms as numbers: addresses of the memory rows, the bank number, the display's offsets. -/

namespace Sys2Proof.Machine

/-- The addresses of the rows are those of the `TXN` word (30_encoding.md R101). -/
theorem lowAddr_eq (a : BitVec 14) : (0b00#2 ++ a : Word).toNat = lowAddr a := by
  have h : (0b00#2 ++ a : Word).toNat = (0b00#2).toNat <<< 14 ||| a.toNat := BitVec.toNat_append (0b00#2) a
  rw [h]
  simp [lowAddr]

theorem windowAddr_eq (a : BitVec 14) : (0b01#2 ++ a : Word).toNat = windowAddr a := by
  have h : (0b01#2 ++ a : Word).toNat = (0b01#2).toNat <<< 14 ||| a.toNat := BitVec.toNat_append (0b01#2) a
  rw [h, Nat.shiftLeft_eq, Nat.mul_comm, ← Nat.two_pow_add_eq_or_of_lt a.isLt]
  rfl

theorem ramAddr_eq (a : BitVec 15) : (0b1#1 ++ a : Word).toNat = ramAddr a := by
  have h : (0b1#1 ++ a : Word).toNat = (0b1#1).toNat <<< 15 ||| a.toNat := BitVec.toNat_append (0b1#1) a
  rw [h, Nat.shiftLeft_eq, Nat.mul_comm, ← Nat.two_pow_add_eq_or_of_lt a.isLt]
  rfl

/-- `bank()` as a number, where `bank_low` lies within its width (20_memory.md R73). -/
theorem bank_eq (s : State) (h : s.map.bankLow < 2 ^ s.cfg.bankLowBits) :
    s.bank = s.map.bankLow + 2 ^ s.cfg.bankLowBits * s.map.bankHigh.toNat := by
  unfold State.bank
  rw [Nat.or_comm, Nat.shiftLeft_eq, Nat.mul_comm, ← Nat.two_pow_add_eq_or_of_lt h]
  exact Nat.add_comm _ _

/-- The bank index lies within `NBANKS` (10_state.md R27: "always within available ROM bank count"). -/
theorem bank_lt (s : State) (h : s.map.bankLow < 2 ^ s.cfg.bankLowBits) : s.bank < s.cfg.nBanks := by
  rw [bank_eq s h, Params.nBanks, Nat.pow_succ]
  have h1 := s.map.bankHigh.isLt
  have h2 : 2 ^ s.cfg.bankLowBits * s.map.bankHigh.toNat ≤ 2 ^ s.cfg.bankLowBits * 1 := Nat.mul_le_mul_left _ (by omega)
  omega

/-- Port 2 loads a value of `BANK_LOW_BITS` bits (42_port_dispatch.md R166). -/
theorem port2BankLow_lt (p : Params) (v : Byte) : port2BankLow p v < 2 ^ p.bankLowBits :=
  Nat.mod_lt _ (Nat.two_pow_pos _)

/-- The mode-1 offset lies within VRAM but for the cells of the last two rows that 43_display.md R204 names. -/
theorem offset1_lt_iff (d : Display) :
    d.offset1 < vramSize ↔ ¬ ((d.y = 63 ∧ 12 ≤ d.x.toNat) ∨ (d.y = 62 ∧ 24 ≤ d.x.toNat)) := by
  have hx := d.x.isLt
  have hy := d.y.isLt
  have h63 : d.y = 63 ↔ d.y.toNat = 63 := ⟨fun h => by simp [h], fun h => BitVec.eq_of_toNat_eq h⟩
  have h62 : d.y = 62 ↔ d.y.toNat = 62 := ⟨fun h => by simp [h], fun h => BitVec.eq_of_toNat_eq h⟩
  rw [h63, h62]
  unfold Display.offset1 vramSize rowStride
  omega

/-- The mode-0 offset lies within VRAM but for the cells of the last row past its end. -/
theorem offset0_lt_iff (d : Display) : d.offset0 < vramSize ↔ ¬ (d.y = 63 ∧ 16 ≤ d.x.toNat) := by
  have hx := d.x.isLt
  have hy := d.y.isLt
  have h63 : d.y = 63 ↔ d.y.toNat = 63 := ⟨fun h => by simp [h], fun h => BitVec.eq_of_toNat_eq h⟩
  rw [h63]
  unfold Display.offset0 Display.pixelCol vramSize rowStride
  omega

end Sys2Proof.Machine
end

