-- ==== Sys2Proof/Laws/PerInstr.lean ====
section
/-! SUPPORT. The family TableRow: the word of an instruction has the fixed bits that its row of spec/opcode_table.json gives
it, in the format the row names. -/

namespace Sys2Proof.Laws.TableRow

open Sys2Proof

/-- The fixed bits of a row, `hi` down to `lo`, as the table lists them. -/
structure Row where
  format : Format
  hi : Nat
  lo : Nat
  value : Nat
deriving DecidableEq, Repr

/-- The row of each instruction, copied from the table. -/
def rowOf : Instr → Row
  | .dispMode _ => ⟨.dcmd, 7, 1, 0⟩
  | .dispNop23 _ => ⟨.dcmd, 7, 1, 1⟩
  | .dispDir _ => ⟨.dcmd, 7, 2, 1⟩
  | .dispScroll8 _ => ⟨.dcmd, 7, 3, 1⟩
  | .dispScroll16 _ => ⟨.dcmd, 7, 4, 1⟩
  | .dispScroll32 _ => ⟨.dcmd, 7, 5, 1⟩
  | .dispSetx _ _ => ⟨.dcmd, 7, 6, 1⟩
  | .dispSety _ => ⟨.dcmd, 7, 6, 2⟩
  | .dispContrast _ => ⟨.dcmd, 7, 6, 3⟩
  | .memrdLow _ => ⟨.txn, 17, 14, 0⟩
  | .memrdWindow _ => ⟨.txn, 17, 14, 1⟩
  | .memrdRam _ => ⟨.txn, 17, 15, 1⟩
  | .memwrLow _ _ => ⟨.txn, 17, 14, 4⟩
  | .memwrWindow _ _ => ⟨.txn, 17, 14, 5⟩
  | .memwrRam _ _ => ⟨.txn, 17, 15, 3⟩
  | .iord0 => ⟨.txn, 17, 0, 131072⟩
  | .iowr0 _ => ⟨.txn, 17, 0, 196608⟩
  | .iord1 => ⟨.txn, 17, 0, 131073⟩
  | .iowr1 _ => ⟨.txn, 17, 0, 196609⟩
  | .iord2 => ⟨.txn, 17, 0, 131074⟩
  | .iowr2 _ => ⟨.txn, 17, 0, 196610⟩
  | .iord3 => ⟨.txn, 17, 0, 131075⟩
  | .iowr3 _ => ⟨.txn, 17, 0, 196611⟩
  | .iord4 => ⟨.txn, 17, 0, 131076⟩
  | .iowr4 _ => ⟨.txn, 17, 0, 196612⟩
  | .iord16 => ⟨.txn, 17, 0, 131088⟩
  | .iowr16 _ => ⟨.txn, 17, 0, 196624⟩
  | .iord17 => ⟨.txn, 17, 0, 131089⟩
  | .iowr17 _ => ⟨.txn, 17, 0, 196625⟩
  | .iordOther _ => ⟨.txn, 17, 16, 2⟩
  | .iowrOther _ _ => ⟨.txn, 17, 16, 3⟩
  | .construct _ => ⟨.hostop, 3, 0, 0⟩
  | .hardReset => ⟨.hostop, 3, 0, 1⟩
  | .frameAdvance => ⟨.hostop, 3, 0, 2⟩
  | .sendFile _ => ⟨.hostop, 3, 0, 3⟩
  | .saveText => ⟨.hostop, 3, 0, 4⟩
  | .loadText _ => ⟨.hostop, 3, 0, 5⟩
  | .saveBinary => ⟨.hostop, 3, 0, 6⟩
  | .loadBinary _ => ⟨.hostop, 3, 0, 7⟩
  | .domainRead _ => ⟨.hostop, 3, 0, 8⟩
  | .domainWrite _ _ => ⟨.hostop, 3, 0, 9⟩
  | .getFramebuffer => ⟨.hostop, 3, 0, 10⟩
  | .setButtons _ => ⟨.hostop, 3, 0, 11⟩
  | .getCounter _ => ⟨.hostop, 3, 0, 12⟩
  | .setCounter _ _ => ⟨.hostop, 3, 0, 13⟩
  | .dispose => ⟨.hostop, 3, 0, 14⟩
  | .irqAck => ⟨.hostop, 3, 0, 15⟩

/-- The word of a presented operation: its first three bytes, the first the lowest. -/
def slotWord (s : Slot) : Nat :=
  (s.bytes.getD 0 0).toNat + 2 ^ 8 * (s.bytes.getD 1 0).toNat + 2 ^ 16 * (s.bytes.getD 2 0).toNat

/-- The encoding of `i` is of its row's format and has its row's fixed bits. -/
def Statement (i : Instr) : Prop :=
  (encode i).format = (rowOf i).format ∧
    slotWord (encode i) / 2 ^ (rowOf i).lo % 2 ^ ((rowOf i).hi + 1 - (rowOf i).lo) = (rowOf i).value

/-- A transaction's word as a number. -/
theorem slotWord_txnSlot (k : BitVec 2) (a : Word) (data : List Byte) :
    slotWord (txnSlot k a data) = a.toNat + 2 ^ 16 * k.toNat := by
  have hk : (0#6 ++ k : BitVec 8).toNat = k.toNat := by
    have h : (0#6 ++ k : BitVec 8).toNat = (0#6).toNat <<< 2 ||| k.toNat := BitVec.toNat_append (0#6) k
    rw [h]
    simp
  have ha := a.isLt
  simp only [slotWord, txnSlot, List.getD_cons_zero, List.getD_cons_succ, hk, BitVec.extractLsb'_toNat,
    Nat.shiftRight_eq_div_pow]
  omega

/-- The offset of a row as part of the address. -/
theorem append_toNat {m n : Nat} (x : BitVec m) (y : BitVec n) : (x ++ y).toNat = 2 ^ n * x.toNat + y.toNat := by
  rw [BitVec.toNat_append, Nat.shiftLeft_eq, Nat.mul_comm, ← Nat.two_pow_add_eq_or_of_lt y.isLt]

theorem slotWord_dcmdSlot (c : Byte) : slotWord (dcmdSlot c) = c.toNat := rfl

theorem slotWord_hostopSlot (h : BitVec 4) (args : HostArgs) : slotWord (hostopSlot h args) = h.toNat := by
  have hk : (0#4 ++ h : BitVec 8).toNat = 2 ^ 4 * (0#4).toNat + h.toNat := append_toNat _ h
  simp only [slotWord, hostopSlot, List.getD_cons_zero, List.getD_cons_succ, List.getD_nil, hk]
  simp

/-- One lemma per format: the statement from the encoding, the row and the arithmetic. -/
theorem of_dcmd {i : Instr} {c : Byte} {hi lo value : Nat} (he : encode i = dcmdSlot c)
    (hr : rowOf i = ⟨.dcmd, hi, lo, value⟩) (h : c.toNat / 2 ^ lo % 2 ^ (hi + 1 - lo) = value) : Statement i := by
  rw [Statement, he, hr, slotWord_dcmdSlot]
  exact ⟨rfl, h⟩

theorem of_txn {i : Instr} {k : BitVec 2} {a : Word} {data : List Byte} {hi lo value : Nat}
    (he : encode i = txnSlot k a data) (hr : rowOf i = ⟨.txn, hi, lo, value⟩)
    (h : (a.toNat + 2 ^ 16 * k.toNat) / 2 ^ lo % 2 ^ (hi + 1 - lo) = value) : Statement i := by
  rw [Statement, he, hr, slotWord_txnSlot]
  exact ⟨rfl, h⟩

theorem of_hostop {i : Instr} {n : BitVec 4} {args : HostArgs} {hi lo value : Nat} (he : encode i = hostopSlot n args)
    (hr : rowOf i = ⟨.hostop, hi, lo, value⟩) (h : n.toNat / 2 ^ lo % 2 ^ (hi + 1 - lo) = value) : Statement i := by
  rw [Statement, he, hr, slotWord_hostopSlot]
  exact ⟨rfl, h⟩

theorem dispMode (m : BitVec 1) : Statement (.dispMode m) := by
  have hv := m.isLt
  have h : (0b0000000#7 ++ m : Byte).toNat = 2 ^ 1 * (0b0000000#7).toNat + m.toNat := append_toNat _ m
  refine of_dcmd rfl rfl ?_
  rw [h, BitVec.toNat_ofNat]
  omega

theorem dispNop23 (n : BitVec 1) : Statement (.dispNop23 n) := by
  have hv := n.isLt
  have h : (0b0000001#7 ++ n : Byte).toNat = 2 ^ 1 * (0b0000001#7).toNat + n.toNat := append_toNat _ n
  refine of_dcmd rfl rfl ?_
  rw [h, BitVec.toNat_ofNat]
  omega

theorem dispDir (d : BitVec 2) : Statement (.dispDir d) := by
  have hv := d.isLt
  have h : (0b000001#6 ++ d : Byte).toNat = 2 ^ 2 * (0b000001#6).toNat + d.toNat := append_toNat _ d
  refine of_dcmd rfl rfl ?_
  rw [h, BitVec.toNat_ofNat]
  omega

theorem dispScroll8 (s : BitVec 3) : Statement (.dispScroll8 s) := by
  have hv := s.isLt
  have h : (0b00001#5 ++ s : Byte).toNat = 2 ^ 3 * (0b00001#5).toNat + s.toNat := append_toNat _ s
  refine of_dcmd rfl rfl ?_
  rw [h, BitVec.toNat_ofNat]
  omega

theorem dispScroll16 (s : BitVec 4) : Statement (.dispScroll16 s) := by
  have hv := s.isLt
  have h : (0b0001#4 ++ s : Byte).toNat = 2 ^ 4 * (0b0001#4).toNat + s.toNat := append_toNat _ s
  refine of_dcmd rfl rfl ?_
  rw [h, BitVec.toNat_ofNat]
  omega

theorem dispScroll32 (s : BitVec 5) : Statement (.dispScroll32 s) := by
  have hv := s.isLt
  have h : (0b001#3 ++ s : Byte).toNat = 2 ^ 5 * (0b001#3).toNat + s.toNat := append_toNat _ s
  refine of_dcmd rfl rfl ?_
  rw [h, BitVec.toNat_ofNat]
  omega

theorem dispSetx (u : BitVec 1) (x : BitVec 5) : Statement (.dispSetx u x) := by
  have hx := x.isLt
  have hu := u.isLt
  have h1 : (0b01#2 ++ u ++ x : Byte).toNat = 2 ^ 5 * (0b01#2 ++ u).toNat + x.toNat := append_toNat _ x
  have h2 : (0b01#2 ++ u).toNat = 2 ^ 1 * (0b01#2).toNat + u.toNat := append_toNat _ u
  refine of_dcmd rfl rfl ?_
  rw [h1, h2, BitVec.toNat_ofNat]
  omega

theorem dispSety (r : BitVec 6) : Statement (.dispSety r) := by
  have hv := r.isLt
  have h : (0b10#2 ++ r : Byte).toNat = 2 ^ 6 * (0b10#2).toNat + r.toNat := append_toNat _ r
  refine of_dcmd rfl rfl ?_
  rw [h, BitVec.toNat_ofNat]
  omega

theorem dispContrast (k : BitVec 6) : Statement (.dispContrast k) := by
  have hv := k.isLt
  have h : (0b11#2 ++ k : Byte).toNat = 2 ^ 6 * (0b11#2).toNat + k.toNat := append_toNat _ k
  refine of_dcmd rfl rfl ?_
  rw [h, BitVec.toNat_ofNat]
  omega

theorem memrdLow (a : BitVec 14) : Statement (.memrdLow a) := by
  have ha := a.isLt
  have h : (0b00#2 ++ a : Word).toNat = 2 ^ 14 * (0b00#2).toNat + a.toNat := append_toNat _ a
  refine of_txn rfl rfl ?_
  simp only [h, BitVec.toNat_ofNat]
  omega

theorem memrdWindow (a : BitVec 14) : Statement (.memrdWindow a) := by
  have ha := a.isLt
  have h : (0b01#2 ++ a : Word).toNat = 2 ^ 14 * (0b01#2).toNat + a.toNat := append_toNat _ a
  refine of_txn rfl rfl ?_
  simp only [h, BitVec.toNat_ofNat]
  omega

theorem memrdRam (a : BitVec 15) : Statement (.memrdRam a) := by
  have ha := a.isLt
  have h : (0b1#1 ++ a : Word).toNat = 2 ^ 15 * (0b1#1).toNat + a.toNat := append_toNat _ a
  refine of_txn rfl rfl ?_
  simp only [h, BitVec.toNat_ofNat]
  omega

theorem memwrLow (a : BitVec 14) (v : Byte) : Statement (.memwrLow a v) := by
  have ha := a.isLt
  have h : (0b00#2 ++ a : Word).toNat = 2 ^ 14 * (0b00#2).toNat + a.toNat := append_toNat _ a
  refine of_txn rfl rfl ?_
  simp only [h, BitVec.toNat_ofNat]
  omega

theorem memwrWindow (a : BitVec 14) (v : Byte) : Statement (.memwrWindow a v) := by
  have ha := a.isLt
  have h : (0b01#2 ++ a : Word).toNat = 2 ^ 14 * (0b01#2).toNat + a.toNat := append_toNat _ a
  refine of_txn rfl rfl ?_
  simp only [h, BitVec.toNat_ofNat]
  omega

theorem memwrRam (a : BitVec 15) (v : Byte) : Statement (.memwrRam a v) := by
  have ha := a.isLt
  have h : (0b1#1 ++ a : Word).toNat = 2 ^ 15 * (0b1#1).toNat + a.toNat := append_toNat _ a
  refine of_txn rfl rfl ?_
  simp only [h, BitVec.toNat_ofNat]
  omega

theorem iord0 : Statement (.iord0) := of_txn rfl rfl rfl

theorem iowr0 (v : Byte) : Statement (.iowr0 v) := of_txn rfl rfl rfl

theorem iord1 : Statement (.iord1) := of_txn rfl rfl rfl

theorem iowr1 (v : Byte) : Statement (.iowr1 v) := of_txn rfl rfl rfl

theorem iord2 : Statement (.iord2) := of_txn rfl rfl rfl

theorem iowr2 (v : Byte) : Statement (.iowr2 v) := of_txn rfl rfl rfl

theorem iord3 : Statement (.iord3) := of_txn rfl rfl rfl

theorem iowr3 (v : Byte) : Statement (.iowr3 v) := of_txn rfl rfl rfl

theorem iord4 : Statement (.iord4) := of_txn rfl rfl rfl

theorem iowr4 (v : Byte) : Statement (.iowr4 v) := of_txn rfl rfl rfl

theorem iord16 : Statement (.iord16) := of_txn rfl rfl rfl

theorem iowr16 (v : Byte) : Statement (.iowr16 v) := of_txn rfl rfl rfl

theorem iord17 : Statement (.iord17) := of_txn rfl rfl rfl

theorem iowr17 (v : Byte) : Statement (.iowr17 v) := of_txn rfl rfl rfl

theorem iordOther (p : Word) : Statement (.iordOther p) := by
  have hp := p.isLt
  refine of_txn rfl rfl ?_
  rw [BitVec.toNat_ofNat]
  omega

theorem iowrOther (p : Word) (v : Byte) : Statement (.iowrOther p v) := by
  have hp := p.isLt
  refine of_txn rfl rfl ?_
  rw [BitVec.toNat_ofNat]
  omega

theorem construct (args : ConstructArgs) : Statement (.construct args) := of_hostop rfl rfl rfl

theorem hardReset : Statement (.hardReset) := of_hostop rfl rfl rfl

theorem frameAdvance : Statement (.frameAdvance) := of_hostop rfl rfl rfl

theorem sendFile (bytes : List Byte) : Statement (.sendFile bytes) := of_hostop rfl rfl rfl

theorem saveText : Statement (.saveText) := of_hostop rfl rfl rfl

theorem loadText (snap : Snapshot) : Statement (.loadText snap) := of_hostop rfl rfl rfl

theorem saveBinary : Statement (.saveBinary) := of_hostop rfl rfl rfl

theorem loadBinary (bytes : List Byte) : Statement (.loadBinary bytes) := of_hostop rfl rfl rfl

theorem domainRead (a : Nat) : Statement (.domainRead a) := of_hostop rfl rfl rfl

theorem domainWrite (a : Nat) (v : Byte) : Statement (.domainWrite a v) := of_hostop rfl rfl rfl

theorem getFramebuffer : Statement (.getFramebuffer) := of_hostop rfl rfl rfl

theorem setButtons (names : List Line) : Statement (.setButtons names) := of_hostop rfl rfl rfl

theorem getCounter (which : Counter) : Statement (.getCounter which) := of_hostop rfl rfl rfl

theorem setCounter (which : Counter) (n : Nat) : Statement (.setCounter which n) := of_hostop rfl rfl rfl

theorem dispose : Statement (.dispose) := of_hostop rfl rfl rfl

theorem irqAck : Statement (.irqAck) := of_hostop rfl rfl rfl

end Sys2Proof.Laws.TableRow
end

