-- ==== Sys2Proof/Laws/Step.lean ====
section
/-! SUPPORT. What a step can do, said once, and the memory of the state after reset. -/

namespace Sys2Proof.Machine

/-- A step stays (nothing presented), refuses the operation by name, stops at an address the machine does not have, or is exec
of the operation decoded, in its agent's turn. -/
theorem step_cases (s : State) :
    (s.pending = [] ∧ step s = .next s) ∨ (∃ e, step s = .refused e) ∨
    step s = .fault .noSuchAddress ∨
    (∃ slot rest i, s.pending = slot :: rest ∧ decode slot = .ok i ∧ accepts i s = true ∧ byEngine i = s.inFrame ∧
      reaches i s = true ∧ step s = exec i (s.withPending rest)) := by
  unfold step runNext
  cases hp : s.pending with
  | nil => exact .inl ⟨rfl, rfl⟩
  | cons slot rest =>
    refine .inr ?_
    simp only [runSlot]
    cases hd : decode slot with
    | error e => exact .inl ⟨_, rfl⟩
    | ok i =>
      simp only
      split
      · rename_i ha
        unfold runInTurn
        have hreach : reaches i (s.withPending rest) = reaches i s := rfl
        cases hb : byEngine i <;> cases hf : (s.withPending rest).inFrame
        · refine .inr (.inr ⟨slot, rest, i, rfl, hd, ha, hb.trans hf.symm, ?_, by simp⟩)
          unfold reaches
          have hn : instrTransaction i = none := by
            simp only [byEngine, Bool.or_eq_false_iff] at hb
            simpa using hb.1
          rw [hn]
        · exact .inl ⟨.frameInProgress, by simp⟩
        · exact .inl ⟨.noFrame, by simp⟩
        · cases hr : reaches i s
          · exact .inr (.inl (by simp [hreach, hr]))
          · exact .inr (.inr ⟨slot, rest, i, rfl, hd, ha, hb.trans hf.symm, hr, by simp [hreach, hr]⟩)
      · exact .inl ⟨_, rfl⟩

/-- What an operation keeps from every state, a step keeps. -/
theorem step_keeps {P : State → Prop} (hpend : ∀ s p, P s → P (s.withPending p))
    (hexec : ∀ i s t, P s → exec i s = .next t → P t) {s t : State} (hs : P s) (h : step s = .next t) : P t := by
  obtain ⟨-, h1⟩ | ⟨e, h1⟩ | h1 | ⟨slot, rest, i, -, -, -, -, -, h1⟩ := step_cases s
  · rw [h1] at h
    cases h
    exact hs
  · rw [h1] at h
    cases h
  · rw [h1] at h
    cases h
  · exact hexec i _ t (hpend s rest hs) (h1.symm.trans h)

/-- The memories of the state after reset list nothing, so they are canonical. -/
theorem reset_memories : State.reset.rom = [] ∧ State.reset.ram = [] ∧ State.reset.vram = [] := ⟨rfl, rfl, rfl⟩

theorem reset_memories_wf :
    Memory.wf romFill State.reset.rom = true ∧ Memory.wf ramFill State.reset.ram = true ∧
      Memory.wf vramFill State.reset.vram = true := ⟨rfl, rfl, rfl⟩

end Sys2Proof.Machine
end

