-- ==== Sys2Proof/Laws/Text.lean ====
section
/-! SUPPORT. Printing a value and reading it back gives the value, for the fields of a snapshot and the plain form of a CPU
block. -/

namespace Sys2Proof.Machine

open Sys2Proof.Safety

/-- Reading the digits printed before `acc`. -/
theorem parseDecFrom_decDigits (fuel : Nat) :
    ∀ (n k : Nat) (acc : Line), n < fuel → ∃ k', parseDecFrom k (decDigits fuel n acc) = parseDecFrom k' acc ∧
      (k = 0 → k' = n) := by
  induction fuel with
  | zero => intro n k acc h; omega
  | succ fuel ih =>
    have hone : ∀ (d k : Nat) (acc : Line), d < 10 →
        parseDecFrom k (decDigit d :: acc) = parseDecFrom (10 * k + d) acc := by
      intro d k acc hd
      have hc : (decDigit d).toNat = 48 + d := by
        rw [decDigit, BitVec.toNat_ofNat, Nat.mod_eq_of_lt (by omega)]
      rw [parseDecFrom, hc, if_pos (by omega)]
      congr 1
      omega
    intro n k acc h
    unfold decDigits
    split
    · rename_i h10
      exact ⟨10 * k + n, hone n k acc h10, fun hk => by omega⟩
    · obtain ⟨k', hk', hz⟩ := ih (n / 10) k (decDigit (n % 10) :: acc) (by omega)
      exact ⟨10 * k' + n % 10, by rw [hk', hone _ _ _ (by omega)], fun hk => by have := hz hk; omega⟩

theorem decDigits_ne_nil (fuel n : Nat) (acc : Line) (h : 0 < fuel) : decDigits fuel n acc ≠ [] := by
  induction fuel generalizing n acc with
  | zero => omega
  | succ fuel ih =>
    unfold decDigits
    split
    · simp
    · cases fuel with
      | zero => simp [decDigits]
      | succ f => exact ih _ _ (by omega)

theorem parseDec_printDec (n : Nat) : parseDec (printDec n) = some n := by
  unfold parseDec printDec
  rw [if_neg (decDigits_ne_nil _ _ _ (by omega))]
  obtain ⟨k', h, hz⟩ := parseDecFrom_decDigits (n + 1) n 0 [] (by omega)
  rw [h, hz rfl]
  rfl

theorem hexValue_hexDigit (d : Nat) (h : d < 16) : hexValue (hexDigit d) = some d := by
  have : ∀ d : Fin 16, hexValue (hexDigit d) = some d.val := by decide
  exact this ⟨d, h⟩

theorem parseHex_printHex (bs : List Byte) : parseHex (printHex bs) = some bs := by
  induction bs with
  | nil => rfl
  | cons b bs ih =>
    rw [printHex, parseHex, hexValue_hexDigit _ (by omega), hexValue_hexDigit _ (by omega), ih]
    simp only [Option.some.injEq, List.cons.injEq, and_true]
    rw [Nat.div_add_mod]
    exact BitVec.eq_of_toNat_eq (by rw [BitVec.toNat_ofNat, Nat.mod_eq_of_lt b.isLt])

theorem parseFlag_printVal (b : Bool) : parseFlag (printVal (.flag b)) = some b := by
  cases b <;> decide

/-- A value that fits its field is read back from what is printed of it. -/
theorem parseVal_printVal (t : SnapType) (v : SnapVal) (h : v.fits t = true) : parseVal t (printVal v) = some v := by
  unfold parseVal
  have hr : parseRaw t (printVal v) = some v := by
    cases t <;> cases v <;> simp [SnapVal.fits] at h <;>
      first
        | (simp [parseRaw, parseFlag_printVal]; done)
        | (simp [parseRaw, printVal, parseDec_printDec]; done)
        | simp [parseRaw, printVal, parseHex_printHex]
  rw [hr, Option.filter_some, if_pos h]

/-- A value that is read fits its field. -/
theorem parseVal_fits {t : SnapType} {l : Line} {v : SnapVal} (h : parseVal t l = some v) : v.fits t = true :=
  (Option.filter_eq_some_iff.1 h).2

/-- The line of field `i` of a saved text (48_host_interface.md R302). -/
theorem fieldLines_getElem? (s : State) (i : Nat) :
    (fieldLines s)[i]? = (s.cfg.textKeys[i]?).bind fun k => (s.snapshot[i]?).map (fieldLine k) := by
  rw [fieldLines, List.getElem?_zipWith]
  cases s.cfg.textKeys[i]? <;> cases s.snapshot[i]? <;> rfl

/-- A field line splits into its key and its printed value. -/
theorem splitLine_fieldLine (key : Line) (v : SnapVal) (h : spaceChar ∉ key) :
    splitLine (fieldLine key v) = (key, printVal v) := by
  have hk : ∀ c ∈ key, (c != spaceChar) = true := fun c hc => by
    simp only [bne_iff_ne]
    rintro rfl
    exact h hc
  unfold splitLine fieldLine
  rw [List.takeWhile_append_of_pos hk, List.dropWhile_append_of_pos hk]
  simp

theorem plainLoad_plainCpu (c : Cpu) : plainLoad (plainCpu c) = some c := by
  have hp : spaceChar ∉ pcKey := by decide
  have hb : spaceChar ∉ blockKey := by decide
  have h1 : valueFor pcKey .num (fieldLine pcKey (.num c.pc)) = some (.num c.pc) := by
    rw [valueFor, splitLine_fieldLine _ _ hp, if_pos rfl]
    exact parseVal_printVal .num (.num c.pc) rfl
  have h2 : valueFor blockKey .buf (fieldLine blockKey (.buf c.block)) = some (.buf c.block) := by
    rw [valueFor, splitLine_fieldLine _ _ hb, if_pos rfl]
    exact parseVal_printVal .buf (.buf c.block) rfl
  simp only [plainLoad, plainCpu, h1, h2]

/-- The law of 48_host_interface.md R303 holds of an engine that keeps to the plain form. -/
theorem engineLoad_saveCpu_plain (e : Engine) (t : EngineTable) (hk : e.kind = .table t) (h : t.codec = []) (c : Cpu) :
    engineLoad e (saveCpu e c) = some c := by
  simp only [engineLoad, saveCpu, hk, h, codecText, codecCpu, Option.getD_none]
  exact plainLoad_plainCpu c

/-- What CORE loads of a block is what the engine loads, if its `cpu.PC` has its width. -/
theorem loadCpu_eq_some {p : Params} {e : Engine} {block : Text} {c : Cpu} :
    loadCpu p e block = some c ↔ engineLoad e block = some c ∧ c.pc < 2 ^ p.addrBits := by
  simp [loadCpu, Option.filter_eq_some_iff]

/-- A field line adds at most notices, after those there are (48_host_interface.md R304). -/
theorem loadField_notices {p : Params} {a b : LoadState} {l : Line} (h : loadField p a l = some b) :
    ∃ ns, b.notices = a.notices ++ ns := by
  simp only [loadField] at h
  split at h
  · cases h; exact ⟨_, rfl⟩
  · split at h
    · cases h; exact ⟨_, rfl⟩
    · obtain ⟨v, -, rfl⟩ := Option.map_eq_some_iff.1 h
      exact ⟨[], (List.append_nil _).symm⟩

/-- Lines that end where a field line may stand are read on their own: either they stop the load, whatever follows, or the rest
is read as fields from what they gathered, with notices added after those there were (48_host_interface.md R304). -/
theorem loadLines_between (p : Params) (e : Engine) (front : Text) :
    ∀ (mode : LoadMode) (a : LoadState) (inside : Bool), mode ≠ .before → (inside = true ↔ mode ≠ .fields) →
      betweenFields p e inside front = true →
      ∃ r : Option LoadState,
        (∀ rest, loadLines p e mode a (front ++ rest) = r.bind fun a' => loadLines p e .fields a' rest) ∧
        ∀ a', r = some a' → ∃ ns, a'.notices = a.notices ++ ns := by
  induction front with
  | nil =>
    intro mode a inside hb hm hf
    have : mode = .fields := by
      by_contra h
      simp [betweenFields, hm.2 h] at hf
    subst this
    exact ⟨some a, fun _ => rfl, fun a' h => ⟨[], by cases h; simp⟩⟩
  | cons l front ih =>
    intro mode a inside hb hm hf
    cases mode with
    | before => exact absurd rfl hb
    | fields =>
      have hi : inside = false := by simpa using hm
      subst hi
      simp only [betweenFields, Bool.false_eq_true, if_false, Bool.and_eq_true, decide_eq_true_eq] at hf
      by_cases ho : l = e.openMark
      · obtain ⟨r, hr, hn⟩ := ih (.inCpu []) a true (by simp) (by simp) (by simpa [ho] using hf.2)
        exact ⟨r, fun rest => by rw [List.cons_append, loadLines]; simp only [if_neg hf.1, if_pos ho, hr], hn⟩
      · cases hl : loadField p a l with
        | none => exact ⟨none, fun rest => by simp [loadLines, hf.1, ho, hl], by simp⟩
        | some a1 =>
          obtain ⟨r, hr, hn⟩ := ih .fields a1 false (by simp) (by simp) (by simpa [ho] using hf.2)
          refine ⟨r, fun rest => ?_, fun a' ha => ?_⟩
          · rw [List.cons_append, loadLines]
            simp only [if_neg hf.1, if_neg ho, hl, hr]
          obtain ⟨ns, hns⟩ := hn a' ha
          obtain ⟨ms, hms⟩ := loadField_notices hl
          exact ⟨ms ++ ns, by rw [hns, hms, List.append_assoc]⟩
    | inCpu block =>
      have hi : inside = true := by simpa using hm
      subst hi
      simp only [betweenFields, if_true] at hf
      by_cases hc : l = e.closeMark
      · cases hl : loadCpu p e block with
        | none => exact ⟨none, fun rest => by simp [loadLines, hc, hl], by simp⟩
        | some c =>
          obtain ⟨r, hr, hn⟩ := ih .fields { a with cpu := c } false (by simp) (by simp) (by simpa [hc] using hf)
          exact ⟨r, fun rest => by rw [List.cons_append, loadLines]; simp only [if_pos hc, hl, hr], hn⟩
      · obtain ⟨r, hr, hn⟩ := ih (.inCpu (block ++ [l])) a true (by simp) (by simp) (by simpa [hc] using hf)
        exact ⟨r, fun rest => by rw [List.cons_append, loadLines]; simp only [if_neg hc, hr], hn⟩

/-- What a snapshot holds fits its fields, but for the harness's tag (46_link_protocol.md R261). -/
theorem snapshot_fits (s : State) (hs : InRange s) (hc : s.link.cont ≠ .test) :
    List.Forall₂ (fun v t => SnapVal.fits t v = true) s.snapshot (snapTypes s.cfg) := by
  have hp : phaseOrdinal s.link.phase < 5 := by cases s.link.phase <;> decide
  have ht : contOrdinal s.link.cont < 7 := by
    cases h : s.link.cont <;> first | exact absurd h hc | decide
  have hb := hs.bits
  have hb' := hs.bitStep
  have bit1 : ∀ v : BitVec 1, v.toNat < 2 := fun v => v.isLt
  have bit2 : ∀ v : BitVec 2, v.toNat < 4 := fun v => v.isLt
  have bit5 : ∀ v : BitVec 5, v.toNat < 32 := fun v => v.isLt
  have bit6 : ∀ v : BitVec 6, v.toNat < 64 := fun v => v.isLt
  have bit8 : ∀ v : BitVec 8, v.toNat < 256 := fun v => v.isLt
  have bit16 : ∀ v : BitVec 16, v.toNat < 65536 := fun v => v.isLt
  unfold State.snapshot snapTypes
  simp only [List.forall₂_cons, List.forall₂_nil_left_iff, SnapVal.fits, decide_eq_true_eq, hs.nmi, Bool.not_false,
    Memory.length_toBytesFrom, true_and, and_true]
  repeat' apply And.intro
  all_goals first | exact hs.bankLow | exact bit1 _ | exact bit2 _ | exact bit5 _ | exact bit6 _ | exact bit8 _ | exact bit16 _ | exact hp | exact ht | omega

end Sys2Proof.Machine
end

