-- ==== Sys2Proof/Tests/Slice0.lean ====
section
/-! SUPPORT. The model's own tests: ill-formed terms the check refuses, words written out bit by bit from the tables of
30_encoding.md, single steps whose expected values are those of 95_test_vectors.md (its vector is named in each comment) or
of the rule named, and for each statement with hypotheses a witness that meets them. -/

namespace Sys2Proof.Tests

open Sys2Proof Sys2Proof.Machine Sys2Proof.Safety

/-! ## WellFormed: one ill-formed term for each check -/

theorem test_wf_refuses_listed_port_read : (Instr.iordOther 17).wf = false := by decide

theorem test_wf_refuses_listed_port_write : (Instr.iowrOther 0 0x55).wf = false := by decide

/-- Port 0x0100 is not port 0 (V-P22). -/
theorem test_wf_accepts_other_port : (Instr.iordOther 0x0100).wf = true := by decide

/-- Construction inputs with the image `r`. -/
def withImage (r : RomImage) : ConstructArgs := { noArgs.con with rom := r }

/-- An image in no order, with a byte beyond its length, is no malformed term: it denotes the bytes it gives (entry 9). -/
theorem test_image_in_any_order :
    (Instr.construct (withImage { size := 0x40000, cells := [(7, 1), (5, 2), (5, 3), (6, 0), (0x40000, 1)] })).wf = true ∧
    imageMemory { size := 0x40000, cells := [(7, 1), (5, 2), (5, 3), (6, 0), (0x40000, 1)] } = [(5, 2), (7, 1)] := by
  decide

/-! ## Decode: words written out from the tables of 30_encoding.md (R101, R102, R110, R122) -/

/-- A presented operation given by its bytes. -/
def slot (f : Format) (bytes : List Byte) : Slot := { format := f, bytes := bytes, args := noArgs }

theorem test_decode_display_commands :
    decode (slot .dcmd [0b00000001#8]) = .ok (.dispMode 1) ∧
    decode (slot .dcmd [0b00000010#8]) = .ok (.dispNop23 0) ∧
    decode (slot .dcmd [0b00000111#8]) = .ok (.dispDir 3) ∧
    decode (slot .dcmd [0b00001101#8]) = .ok (.dispScroll8 5) ∧
    decode (slot .dcmd [0b00011001#8]) = .ok (.dispScroll16 9) ∧
    decode (slot .dcmd [0b00110001#8]) = .ok (.dispScroll32 17) ∧
    decode (slot .dcmd [0b01100101#8]) = .ok (.dispSetx 1 5) ∧
    decode (slot .dcmd [0b10111110#8]) = .ok (.dispSety 62) ∧
    decode (slot .dcmd [0b11011000#8]) = .ok (.dispContrast 0x18) := by decide

/-- The word `kk aaaaaaaaaaaaaaaa`, low byte first: `MEMRD 0x1234`, `0x5678`, `0x9ABC`. -/
theorem test_decode_memory_reads :
    decode (slot .txn [0b00110100#8, 0b00010010#8, 0b00#8]) = .ok (.memrdLow 0x1234) ∧
    decode (slot .txn [0b01111000#8, 0b01010110#8, 0b00#8]) = .ok (.memrdWindow 0x1678) ∧
    decode (slot .txn [0b10111100#8, 0b10011010#8, 0b00#8]) = .ok (.memrdRam 0x1ABC) := by decide

theorem test_decode_memory_writes :
    decode (slot .txn [0b00110100#8, 0b00010010#8, 0b01#8, 0x12]) = .ok (.memwrLow 0x1234 0x12) ∧
    decode (slot .txn [0b01111000#8, 0b01010110#8, 0b01#8, 0x34]) = .ok (.memwrWindow 0x1678 0x34) ∧
    decode (slot .txn [0b10111100#8, 0b10011010#8, 0b01#8, 0x56]) = .ok (.memwrRam 0x1ABC 0x56) := by decide

theorem test_decode_port_reads :
    decode (slot .txn [0b00000000#8, 0#8, 0b10#8]) = .ok .iord0 ∧
    decode (slot .txn [0b00000001#8, 0#8, 0b10#8]) = .ok .iord1 ∧
    decode (slot .txn [0b00000010#8, 0#8, 0b10#8]) = .ok .iord2 ∧
    decode (slot .txn [0b00000011#8, 0#8, 0b10#8]) = .ok .iord3 ∧
    decode (slot .txn [0b00000100#8, 0#8, 0b10#8]) = .ok .iord4 ∧
    decode (slot .txn [0b00010000#8, 0#8, 0b10#8]) = .ok .iord16 ∧
    decode (slot .txn [0b00010001#8, 0#8, 0b10#8]) = .ok .iord17 ∧
    decode (slot .txn [0b00000000#8, 1#8, 0b10#8]) = .ok (.iordOther 0x0100) := by decide

theorem test_decode_port_writes :
    decode (slot .txn [0b00000000#8, 0#8, 0b11#8, 0x10]) = .ok (.iowr0 0x10) ∧
    decode (slot .txn [0b00000001#8, 0#8, 0b11#8, 0xFD]) = .ok (.iowr1 0xFD) ∧
    decode (slot .txn [0b00000010#8, 0#8, 0b11#8, 0x03]) = .ok (.iowr2 0x03) ∧
    decode (slot .txn [0b00000011#8, 0#8, 0b11#8, 0x01]) = .ok (.iowr3 0x01) ∧
    decode (slot .txn [0b00000100#8, 0#8, 0b11#8, 0x77]) = .ok (.iowr4 0x77) ∧
    decode (slot .txn [0b00010000#8, 0#8, 0b11#8, 0x85]) = .ok (.iowr16 0x85) ∧
    decode (slot .txn [0b00010001#8, 0#8, 0b11#8, 0xA5]) = .ok (.iowr17 0xA5) ∧
    decode (slot .txn [0b00000101#8, 0#8, 0b11#8, 0x55]) = .ok (.iowrOther 5 0x55) := by decide

theorem test_decode_host_operations :
    decode (slot .hostop [0b0000#8]) = .ok (.construct noArgs.con) ∧
    decode (slot .hostop [0b0001#8]) = .ok .hardReset ∧
    decode (slot .hostop [0b0010#8]) = .ok .frameAdvance ∧
    decode (slot .hostop [0b0011#8]) = .ok (.sendFile []) ∧
    decode (slot .hostop [0b0100#8]) = .ok .saveText ∧
    decode (slot .hostop [0b0101#8]) = .ok (.loadText noArgs.snap) ∧
    decode (slot .hostop [0b0110#8]) = .ok .saveBinary ∧
    decode (slot .hostop [0b0111#8]) = .ok (.loadBinary []) ∧
    decode (slot .hostop [0b1000#8]) = .ok (.domainRead 0) ∧
    decode (slot .hostop [0b1001#8]) = .ok (.domainWrite 0 0) ∧
    decode (slot .hostop [0b1010#8]) = .ok .getFramebuffer ∧
    decode (slot .hostop [0b1011#8]) = .ok (.setButtons []) ∧
    decode (slot .hostop [0b1100#8]) = .ok (.getCounter .frame) ∧
    decode (slot .hostop [0b1101#8]) = .ok (.setCounter .frame 0) ∧
    decode (slot .hostop [0b1110#8]) = .ok .dispose ∧
    decode (slot .hostop [0b1111#8]) = .ok .irqAck := by decide

/-- The host operations take their arguments from beside the word (R122). -/
theorem test_decode_takes_arguments :
    decode { format := .hostop, bytes := [9], args := { noArgs with addr := 0x8123, value := 0x77 } } =
      .ok (.domainWrite 0x8123 0x77) ∧
    decode { format := .hostop, bytes := [13], args := { noArgs with which := .lag, count := 2 } } =
      .ok (.setCounter .lag 2) := by decide

theorem test_decode_rejects :
    decode (slot .dcmd []) = .error .truncated ∧
    decode (slot .txn [0x00, 0x80]) = .error .truncated ∧
    decode (slot .txn [0x00, 0x80, 0x04]) = .error .reservedBits ∧
    decode (slot .txn [0x00, 0x80, 0x01]) = .error .missingData ∧
    decode (slot .hostop [0x10]) = .error .reservedBits ∧
    decode (slot .hostop []) = .error .truncated := by decide

/-! ## Single steps -/

/-- The result is a next state with the property. -/
def holds (r : Result) (p : State → Bool) : Bool :=
  match r with
  | .next t => p t
  | .fault _ => false
  | .refused _ => false

/-- The result is the fault of VRAM. -/
def faultsOnVram (r : Result) : Bool :=
  match r with
  | .next _ => false
  | .fault e => decide (e = .vramRange)
  | .refused _ => false

/-- The byte a read delivered last. -/
def lastRead (t : State) : Option Byte := t.delivered.getLast?

/-- The test ROM of 95_test_vectors.md at the offsets whose values it lists. -/
def trom : Memory :=
  [(0x1234, 0x7E), (0x3FFF, 0x38), (0x4000, 0x4D), (0xC000, 0xE7), (0x2C000, 0x4F), (0x2FFFF, 0x87), (0x34010, 0x59),
   (0x3FFFF, 0xBB)]

/-- `bank_low` and `bank_high` over the test ROM. -/
def banked (lo : Nat) (hi : BitVec 1) : State := { State.reset with rom := trom, map := { bankLow := lo, bankHigh := hi } }

/-- The display at a cell, over a VRAM. -/
def showing (m : BitVec 1) (d : BitVec 2) (x : BitVec 5) (y : BitVec 6) (vram : Memory) : State :=
  { State.reset with vram := vram, disp := { mode := m, dir := d, x := x, y := y, moved := false } }

/-- The buttons held and the keyboard registers. -/
def holding (names : List Line) (mask : Byte) (on : Bool) : State :=
  { State.reset with buttons := names, kbd := { keyMask := mask, maskOn := on, onLatch := false } }

/-- The link group. -/
def linked (l : Link) : State := { State.reset with link := l }

/-- V-M2, and S1: bank 0 whatever the bank registers hold. -/
theorem test_memrd_low :
    holds (exec (.memrdLow 0x3FFF) (banked 3 1)) (fun t => lastRead t = some 0x38 ∧ t.hookLog = [.read 0x3FFF]) = true := by
  decide

/-- V-M5, V-M7: banks 11 and 15, the last ROM byte. -/
theorem test_memrd_window :
    holds (exec (.memrdWindow 0) (banked 3 1)) (fun t => lastRead t = some 0x4F) = true ∧
    holds (exec (.memrdWindow 0x3FFF) (banked 7 1)) (fun t => lastRead t = some 0xBB) = true := by decide

/-- V-M9: the RAM fill. -/
theorem test_memrd_ram : holds (exec (.memrdRam 0x7FFF) State.reset) (fun t => lastRead t = some 0xFF) = true := by decide

/-- V-M12: ignored, and the hook called once. -/
theorem test_memwr_low :
    holds (exec (.memwrLow 0 0x99) (banked 0 0)) (fun t => t.rom = trom ∧ t.ram = [] ∧ t.hookLog = [.write 0]) = true := by
  decide

/-- V-M11, V-M13. -/
theorem test_memwr_window :
    holds (exec (.memwrWindow 0x3FFF 0x99) (banked 3 1))
      (fun t => t.rom = trom ∧ t.ram = [] ∧ t.hookLog = [.write 0x7FFF]) = true := by decide

/-- V-M10: the first and the last byte of RAM. -/
theorem test_memwr_ram :
    holds (exec (.memwrRam 0 0x5A) State.reset) (fun t => t.ram = [(0, 0x5A)] ∧ t.hookLog = [.write 0x8000]) = true ∧
    holds (exec (.memwrRam 0x7FFF 0xA5) State.reset) (fun t => t.ramByte 0x7FFF = 0xA5) = true := by decide

/-- V-P3, V-P7: with `link_in` = 1 both lines are pulled. -/
theorem test_iord0_value :
    holds (exec .iord0 (linked { Link.reset with lineOut := 2 })) (fun t => lastRead t = some 0x06) = true ∧
    holds (exec .iord0 (linked { Link.reset with lineOut := 2, lineIn := 1 })) (fun t => lastRead t = some 0x02) = true := by
  decide

/-- V-LK1 access 1: Prepare and step 5 in one tick. -/
theorem test_iord0_ticks :
    holds (exec .iord0 (linked (Link.reset.startReceive [0xA5] .test)))
      (fun t => lastRead t = some 0x04 ∧ t.link.phase = .receive ∧ t.link.bits = 8 ∧ t.link.bitStep = 4 ∧
        t.link.cur = 0x52 ∧ t.link.lineIn = 2 ∧ t.link.queue = []) = true := by decide

/-- V-P6: bits 7:5 and 3:2 are ignored; V-M7: all ones. -/
theorem test_iowr0_loads :
    holds (exec (.iowr0 0xEC) State.reset) (fun t => t.map.bankHigh = 0 ∧ t.link.lineOut = 0) = true ∧
    holds (exec (.iowr0 0xFF) State.reset) (fun t => t.map.bankHigh = 1 ∧ t.link.lineOut = 3) = true := by decide

/-- V-LK2 and V-LK4: the write ticks at 0x8000 and not at 0x0100. -/
theorem test_iowr0_ticks_above_the_low_bank :
    let l : Link := { Link.reset with active := true, phase := .receive, bits := 8, bitStep := 4, cur := 0x52, lineIn := 2 }
    holds (exec (.iowr0 1) { linked l with cpu := { pc := 0x8000, block := [] } }) (fun t => t.link.bitStep = 3) = true ∧
    holds (exec (.iowr0 1) { linked l with cpu := { pc := 0x0100, block := [] } })
      (fun t => t.link.bitStep = 4 ∧ t.link.lineOut = 1) = true := by decide

/-- V-K7 and V-K4: two groups; two buttons on one bit cancel. -/
theorem test_iord1_matrix :
    holds (exec .iord1 (holding [asc "2ND", asc "ALPHA"] 0x9F false)) (fun t => lastRead t = some 0x5F) = true ∧
    holds (exec .iord1 (holding [asc "ENTER", asc "DOWN"] 0xFC false)) (fun t => lastRead t = some 0xFF) = true := by decide

/-- V-P9: the lag flag and one poll. -/
theorem test_iord1_polls :
    holds (exec .iord1 State.reset.setLagFlag)
      (fun t => lastRead t = some 0xFF ∧ t.ctr.lagFlag = false ∧ t.hookLog = [.poll]) = true := by decide

/-- V-P10. -/
theorem test_iowr1 :
    holds (exec (.iowr1 0xBF) State.reset.setLagFlag)
      (fun t => t.kbd.keyMask = 0xBF ∧ t.ctr.lagFlag = false ∧ t.hookLog = []) = true := by decide

/-- V-P11: not the bank number. -/
theorem test_iord2 : holds (exec .iord2 (banked 5 0)) (fun t => lastRead t = some 0xFF ∧ t.map.bankLow = 5) = true := by
  decide

/-- V-P12. -/
theorem test_iowr2 : holds (exec (.iowr2 0xFD) State.reset) (fun t => t.map.bankLow = 5 ∧ t.map.bankHigh = 0) = true := by
  decide

/-- V-P15 and V-P17: `mask_on` shows only while ON is down. -/
theorem test_iord3_mask :
    holds (exec .iord3 (holding [asc "ON"] 0 true)) (fun t => lastRead t = some 0x03) = true ∧
    holds (exec .iord3 (holding [] 0 true)) (fun t => lastRead t = some 0x0A) = true := by decide

/-- V-P18. -/
theorem test_iord3_link :
    holds (exec .iord3 (linked { Link.reset with active := true })) (fun t => lastRead t = some 0x08) = true := by decide

/-- V-P16: bits 7:1 are ignored. -/
theorem test_iowr3 :
    holds (exec (.iowr3 0xFE) (holding [] 0 true)) (fun t => t.kbd.maskOn = false) = true ∧
    holds (exec (.iowr3 0x01) State.reset) (fun t => t.kbd.maskOn = true) = true := by decide

/-- V-P20. -/
theorem test_port4 :
    holds (exec .iord4 State.reset) (fun t => lastRead t = some 0xFF) = true ∧
    holds (exec (.iowr4 0x12) State.reset) (fun t => t = State.reset) = true := by decide

/-- V-P21. -/
theorem test_iord16 : holds (exec .iord16 State.reset) (fun t => lastRead t = some 0xFF) = true := by decide

/-- V-D2 and V-D4: a direction; a row with `cursor_moved`. -/
theorem test_iowr16 :
    holds (exec (.iowr16 0x06) State.reset) (fun t => t.disp.dir = 2 ∧ t.disp.moved = false) = true ∧
    holds (exec (.iowr16 0xBF) State.reset) (fun t => t.disp.y = 63 ∧ t.disp.moved = true) = true := by decide

/-- V-P22. -/
theorem test_other_ports :
    holds (exec (.iordOther 0x0100) State.reset) (fun t => lastRead t = some 0xFF) = true ∧
    holds (exec (.iowrOther 5 0x12) State.reset) (fun t => t = State.reset) = true := by decide

/-- V-D11 and V-D12: the stale read, advancing and not. -/
theorem test_iord17_stale :
    let s : State := { showing 1 3 0 0 [(0, 0x12)] with disp := { mode := 1, dir := 3, x := 0, y := 0, moved := true } }
    holds (exec .iord17 s) (fun t => lastRead t = some 0x00 ∧ t.disp.x = 1 ∧ t.disp.moved = false) = true ∧
    holds (exec .iord17 { s with cfg := { defaultParams with staleReadAdvances := false } })
      (fun t => lastRead t = some 0x00 ∧ t.disp.x = 0 ∧ t.disp.moved = false) = true := by decide

/-- V-D16: columns 1 and 3 of the 24 bits 000100 100011 010001 010110; V-D21: the fault past the end. -/
theorem test_iord17_packed :
    holds (exec .iord17 (showing 0 3 1 0 [(0, 0x12), (1, 0x34), (2, 0x56)])) (fun t => lastRead t = some 0x23) = true ∧
    holds (exec .iord17 (showing 0 3 3 0 [(0, 0x12), (1, 0x34), (2, 0x56)]))
      (fun t => lastRead t = some 0x16 ∧ t.disp.x = 4) = true ∧
    faultsOnVram (exec .iord17 (showing 0 3 16 63 [])) = true := by decide

/-- V-D8 (column 31 unmasked, then wrapped) and V-D9 (the fault one past the last byte). -/
theorem test_iowr17_bytes :
    holds (exec (.iowr17 0x33) (showing 1 3 31 0 [])) (fun t => t.vram = [(31, 0x33)] ∧ t.disp.x = 0) = true ∧
    faultsOnVram (exec (.iowr17 0x01) (showing 1 0 12 63 [])) = true := by decide

/-- V-D13, and V-D14 after it: a cell over two bytes, its neighbours kept. -/
theorem test_iowr17_packed :
    holds (exec (.iowr17 0x2D) (showing 0 3 1 0 [])) (fun t => t.vram = [(0, 0x02), (1, 0xD0)] ∧ t.disp.x = 2) = true ∧
    holds (exec (.iowr17 0xFF) (showing 0 3 2 0 [(0, 0x02), (1, 0xD0)]))
      (fun t => t.vram = [(0, 0x02), (1, 0xDF), (2, 0xC0)]) = true := by decide

/-- V-D1. -/
theorem test_disp_mode : holds (exec (.dispMode 1) State.reset) (fun t => t.disp.mode = 1 ∧ t.disp.moved = false) = true := by
  decide

/-- V-D2. -/
theorem test_disp_dir : holds (exec (.dispDir 2) State.reset) (fun t => t.disp.dir = 2 ∧ t.disp.moved = false) = true := by
  decide

/-- V-D3: bit 5 ignored, the column unmasked. -/
theorem test_disp_setx : holds (exec (.dispSetx 1 31) State.reset) (fun t => t.disp.x = 31 ∧ t.disp.moved = true) = true := by
  decide

/-- V-D4. -/
theorem test_disp_sety : holds (exec (.dispSety 63) State.reset) (fun t => t.disp.y = 63 ∧ t.disp.moved = true) = true := by
  decide

/-- V-D10 and V-D4. -/
theorem test_disp_no_ops :
    holds (exec (.dispNop23 1) State.reset) (fun t => t = State.reset) = true ∧
    holds (exec (.dispScroll8 7) State.reset) (fun t => t = State.reset) = true ∧
    holds (exec (.dispScroll16 15) State.reset) (fun t => t = State.reset) = true ∧
    holds (exec (.dispScroll32 31) State.reset) (fun t => t = State.reset) = true ∧
    holds (exec (.dispContrast 63) State.reset) (fun t => t = State.reset) = true := by decide

/-- R351: the image's length decides (U5), and the image, the parameters, `START_PC` (`ADDR_BITS` bits) and the fills are in
place. -/
theorem test_construct :
    holds (exec (.construct { withImage { size := 0x40000, cells := trom } with startPc := 0x1234 })
        (showing 1 1 1 1 [(3, 4)]))
      (fun t => t.rom = trom ∧ t.cpu.pc = 0x1234 ∧ t.vram = [] ∧ t.disp = Display.reset) = true ∧
    exec (.construct (withImage { size := 0x3FFFF, cells := [] })) State.reset = .refused .badConstruction := by
  refine ⟨by decide, ?_⟩
  rw [exec, execConstruct, if_neg (by decide)]

theorem test_construct_takes_the_parameters :
    holds (exec (.construct { noArgs.con with
        rom := { size := 0x80000, cells := [] }, params := { defaultParams with bankLowBits := 4 }, startPc := 0x12345 })
        State.reset)
      (fun t => t.cfg.bankLowBits = 4 ∧ t.startPc = 0x2345 ∧ t.cpu.pc = 0x2345) = true := by decide

/-- V-RS1: RAM and the registers are cleared, VRAM and the counters kept. -/
theorem test_hard_reset :
    holds (exec .hardReset { showing 1 3 6 10 [(125, 0xEE)] with
        ram := [(0x1000, 0x42)], irqLine := true, map := { bankLow := 7, bankHigh := 1 },
        ctr := { frame := 7, lag := 2, lagFlag := false, isLag := false } })
      (fun t => t.ramByte 0x1000 = 0xFF ∧ t.vramByte 125 = 0xEE ∧ t.bank = 0 ∧ t.disp = Display.reset ∧
        t.irqLine = false ∧ t.ctr.frame = 7 ∧ t.ctr.lag = 2) = true := by decide

/-- P3, frame 2 (no transaction: a lag frame, and the line asserted). -/
theorem test_frame_without_polls :
    holds (exec .frameAdvance State.reset)
      (fun t => t.ctr = { frame := 1, lag := 1, lagFlag := true, isLag := true } ∧ t.irqLine = true) = true := by decide

/-- An engine that makes the run `r` in every burst of the default budget from the reset state of the CPU. -/
def engineOf (r : EngineRun) : Engine :=
  { silentEngine with
    kind := .table { resetBlock := [], cases := [{ cpu := { pc := 0, block := [] }, budget := 10000, run := r }], codec := [] } }

/-- P3, frame 1: `ENTER` held, group 1 selected, read 0xFE, no lag. -/
theorem test_frame_with_polls :
    holds (exec .frameAdvance { holding [asc "ENTER"] 0 false with
        engine := engineOf (.bus (.iowr 1 0xFD) (.bus (.iord 1) .done)) })
      (fun t => lastRead t = some 0xFE ∧ t.ctr = { frame := 1, lag := 0, lagFlag := false, isLag := false }) = true := by
  decide

/-- R132, R134: the engine stores what a read returned, and accepts the interrupt in the burst after the one that asserted
it. -/
theorem test_engine_reacts :
    holds (executeCycles 10000 { State.reset with
        engine := engineOf (.bus (.iord 2) (.onByte 0xFF (.bus (.memwr 0x8000 0x11) .done) .done)) })
      (fun t => t.ramByte 0 = 0x11) = true ∧
    holds (executeCycles 10000 { State.reset with engine := engineOf (.onIrq (.irqAck .done) .done), irqLine := true })
      (fun t => ¬ t.irqLine) = true := by decide

/-- R70: an engine that issues an address the machine does not have is stopped. -/
theorem test_no_such_address :
    executeCycles 10000 { State.reset with engine := engineOf (.bus (.memrd 0x10000) .done) } = .fault .noSuchAddress ∧
    step (State.withFetchWord { State.reset with cfg := { defaultParams with addrBits := 14 } } 24 0x04000) =
      .fault .noSuchAddress := ⟨rfl, rfl⟩

/-- The test file `F1` of 95_test_vectors.md 2.6. -/
def f1 : List Byte :=
  [0x2A, 0x2A, 0x54, 0x49, 0x38, 0x33, 0x2A, 0x2A, 0x1A, 0x0A, 0x00] ++ List.replicate 42 0x00 ++ [0x12, 0x00] ++
  [0x0B, 0x00, 0x03, 0x00, 0x00, 0x41, 0x00, 0x00, 0x00, 0x00, 0x00, 0x00, 0x00] ++ [0x03, 0x00, 0x11, 0x22, 0x33] ++
  [0xB8, 0x00]

/-- V-LP1: the 17 bytes of the request. -/
theorem test_send_file :
    holds (exec (.sendFile f1) State.reset)
      (fun t => t.reply = .accepted ∧ t.link.active = true ∧ t.link.phase = .prepareReceive ∧
        t.link.var = [0x03, 0x00, 0x11, 0x22, 0x33] ∧
        t.link.queue = [0x03, 0xC9, 0x0B, 0x00, 0x03, 0x00, 0x00, 0x41, 0x00, 0x00, 0x00, 0x00, 0x00, 0x00, 0x00, 0x44,
          0x00]) = true := by decide

/-- V-LP4: the first five bytes; 55 bytes; a corrupted checksum byte. -/
theorem test_send_file_errors :
    holds (exec (.sendFile (f1.take 5)) State.reset) (fun t => t.reply = .formatError .badSignature) = true ∧
    holds (exec (.sendFile (f1.take 55)) State.reset) (fun t => t.reply = .formatError .badLength) = true ∧
    holds (exec (.sendFile (f1.take 74 ++ [0x01])) State.reset)
      (fun t => t.reply = .formatError .badChecksum ∧ t.link = Link.reset) = true := by decide

/-- The text a state saves. -/
def saved (t : State) : Text :=
  match t.reply with
  | .snapshot snap => snap.text
  | _ => []

/-- A load of a text from where it is not known. -/
def load (text : Text) (s : State) : Result := exec (.loadText { text := text, origin := none }) s

/-- R302: a line `<key> <value>`, a boolean as text. -/
theorem test_save_text :
    holds (exec .saveText { banked 5 1 with irqLine := true })
      (fun t => (saved t)[0]? = some (asc "[CORE]") ∧ (saved t)[1]? = some (asc "IRQ_LINE True") ∧
        (saved t)[5]? = some (asc "BANK_LOW 5")) = true := by decide

/-- V-H5: a field, and one notice for the unknown key; a value that does not fit is refused (U12). -/
theorem test_load_text :
    holds (load [asc "[CORE]", asc "DISP_X 31", asc "Bogus 1", asc "KEY_MASK 165", asc "[/CORE]"] State.reset)
      (fun t => t.disp.x = 31 ∧ t.kbd.keyMask = 0xA5 ∧ t.reply = .notices [asc "Bogus"]) = true ∧
    load [asc "[CORE]", asc "DISP_X 32", asc "DISP_X 3", asc "[/CORE]"] State.reset = .refused .badSnapshot ∧
    load [asc "[CORE]", asc "NMI_LINE True", asc "[/CORE]"] State.reset = .refused .badSnapshot ∧
    load [asc "[CORE]", asc "LK_CONT 7", asc "[/CORE]"] State.reset = .refused .badSnapshot ∧
    load [asc "[CORE]", asc "DISP_X 3"] State.reset = .refused .badSnapshot ∧
    load [asc "DISP_X 3"] State.reset = .refused .badSnapshot :=
  ⟨by decide, rfl, rfl, rfl, rfl, rfl⟩

/-- R367, U15: a snapshot of another instance. -/
theorem test_load_from_another_instance :
    exec (.loadText { text := [], origin := some { State.reset.origin with startPc := 1 } }) State.reset =
      .refused .otherInstance := rfl

/-- D36: other markers and another order, the CPU block first. -/
theorem test_text_order :
    let p : Params := { defaultParams with
      startBrackets := (asc "<", asc ">"), endBrackets := ([], asc "."), textOrder := [.cpuBlock, .field 8] }
    saveLines { State.reset with cfg := p } =
      [asc "<CORE>", asc "[CPU]", asc "PC 0", asc "BLOCK ", asc "[/CPU]", asc "DISP_X 0", asc "CORE."] := by decide

/-- D29: with other offsets, a file that ends inside its size field, and one that ends inside its checksum. -/
theorem test_container_too_short_for_a_field :
    validateContainer { defaultParams with linkDataStart := 54 } (f1.take 54) = some .badLength ∧
      validateContainer { defaultParams with linkOverhead := 56 } (f1.take 74) = some .badChecksum := by decide

/-- R303, R139: the engine's own lines, whatever they say, in both directions. -/
theorem test_engine_serializer :
    let c : Cpu := { pc := 0x4321, block := [1] }
    let e : Engine := { silentEngine with
      kind := .table { resetBlock := [], cases := [], codec := [(c, [asc "A 1", asc "F 2"])] } }
    saveCpu e c = [asc "A 1", asc "F 2"] ∧ loadCpu defaultParams e [asc "A 1", asc "F 2"] = some c ∧
      loadCpu defaultParams e [asc "A 2"] = none ∧
      loadCpu { defaultParams with addrBits := 14 } e [asc "A 1", asc "F 2"] = none := by
  decide

/-- V-H4. -/
theorem test_binary :
    holds (exec .saveBinary State.reset) (fun t => t.reply = .bytes []) = true ∧
    holds (exec (.loadBinary [1, 2, 3]) State.reset) (fun t => t = State.reset) = true := by decide

/-- V-H1: the mask 0x7FFF. -/
theorem test_domain_read :
    holds (exec (.domainRead 0x10123) { State.reset with ram := [(0x123, 0x77)] }) (fun t => t.reply = .byte 0x77) = true := by
  decide

/-- V-H2: no hook called. -/
theorem test_domain_write :
    holds (exec (.domainWrite 0x8000 0x3C) State.reset) (fun t => t.ram = [(0, 0x3C)] ∧ t.hookLog = []) = true := by decide

/-- V-H3: pixels (0, 0), (0, 1), (1, 1), (63, 94), (63, 95). -/
theorem test_framebuffer :
    let s := showing 0 0 0 0 [(0, 0x80), (11, 0x01), (12, 0x40), (767, 0x01)]
    s.pixel 0 0 = s.cfg.fbOn ∧ s.pixel 0 1 = s.cfg.fbOff ∧ s.pixel 1 1 = s.cfg.fbOn ∧ s.pixel 63 94 = s.cfg.fbOff ∧
      s.pixel 63 95 = s.cfg.fbOn := by decide

/-- R313: a name that is not in the table stays false. -/
theorem test_set_buttons :
    holds (exec (.setButtons [asc "ON", asc "QUIT", asc "6"]) State.reset)
      (fun t => t.btn (asc "6") ∧ t.btn (asc "ON") ∧ ¬ t.btn (asc "QUIT")) = true := by decide

/-- R295. -/
theorem test_counters :
    holds (exec (.getCounter .lag) { State.reset with ctr := { frame := 7, lag := 2, lagFlag := false, isLag := false } })
      (fun t => t.reply = .count 2) = true ∧
    holds (exec (.setCounter .frame 7) State.reset) (fun t => t.ctr.frame = 7 ∧ t.ctr.lag = 0) = true := by decide

/-- R311. -/
theorem test_dispose : holds (exec .dispose State.reset) (fun t => t.disposed) = true := by decide

/-- R134. -/
theorem test_irq_ack : holds (exec .irqAck State.reset.assertIrq) (fun t => ¬ t.irqLine) = true := by decide

/-- R141: a transaction outside a frame and a host operation inside one have no step. -/
theorem test_step_keeps_the_turns :
    step (State.reset.present (txnSlot 0b10#2 2 [])) = .refused .noFrame ∧
    step ((State.reset.present (hostopSlot 1 noArgs)).withInFrame true) = .refused .frameInProgress := ⟨rfl, rfl⟩

/-- `DISP_MODE 1` by a transaction word through the interface. -/
theorem test_step_runs_the_word :
    holds (step (State.reset.withFetchWord 32 0x01030010)) (fun t => t.disp.mode = 1 ∧ t.pending = []) = true := by decide

/-- The harness entries (R231, U3). -/
theorem test_harness_entries :
    holds (harnessReceive [0xA5] State.reset) (fun t => t.link.phase = .prepareReceive ∧ t.link.queue = [0xA5]) = true ∧
    holds (harnessSend 1 State.reset) (fun t => t.link.phase = .prepareSend ∧ t.link.toSend = 1) = true ∧
    harnessSend 0 State.reset = .refused .sendCountZero := ⟨by decide, by decide, rfl⟩

/-- R307: one domain. -/
theorem test_domains : (domains defaultParams).map Domain.name = [asc "Main RAM"] := by decide

/-! ## Witnesses: for each statement with hypotheses, states and operands that meet them, at the boundaries of its
clauses -/

/-- A presented `IORD 2`, in a frame. -/
def presented : State := State.reset.presentInTurn (slot .txn [0x02, 0x00, 0x02])

/-- A session about to hand the machine a byte, and a presented `IORD 0`, in a frame. -/
def inSession : State :=
  State.presentInTurn { linked (Link.reset.startReceive [0xA5] .test) with cpu := { pc := 0x4000, block := [] } }
    (slot .txn [0x00, 0x00, 0x02])

theorem reset_inRange : InRange State.reset :=
  ⟨rfl, rfl, rfl, rfl, rfl, rfl, by decide, by decide, by decide, by decide, by decide, rfl⟩

theorem defaults_accepted : paramsOk defaultParams = true := by decide

theorem reset_sound : Sound State.reset := ⟨defaults_accepted, .of_inactive rfl⟩

theorem inSession_sound : Sound inSession := ⟨defaults_accepted, .of_startReceive (by decide) (by decide)⟩

theorem inSession_loads_nothing (s : Slot) (rest : List Slot) (i : Instr) (hp : inSession.pending = s :: rest)
    (hd : decode s = .ok i) : isLoad i = false := by
  cases hp
  cases hd
  rfl

theorem witness_DecodeOfEncode : (Instr.iordOther 5).wf = true ∧ (Instr.iordOther 0xFFFF).wf = true ∧
    (Instr.construct (withImage { size := 0x40000, cells := trom })).wf = true := by decide

/-- A transaction of an address the machine has, and one of an address it has not. -/
theorem witness_StepRunsTheDecodedOperation :
    instrTransaction .iord2 = some (.iord 2) ∧ Transaction.fits defaultParams (.iord 2) = true ∧
      instrTransaction .saveText = none ∧ Transaction.fits { defaultParams with portBits := 1 } (.iord 2) = false ∧
    presented.pending = [slot .txn [0x02, 0x00, 0x02]] ∧ decode (slot .txn [0x02, 0x00, 0x02]) = .ok .iord2 ∧
      presented.disposed = false ∧ byEngine .iord2 = presented.inFrame ∧ byEngine .saveText = State.reset.inFrame := by decide

theorem witness_StepStopsByName :
    State.reset.pending = [] ∧ decode (slot .hostop []) = .error .truncated ∧
      decode (slot .txn [0x12, 0x00, 0x02]) = .ok (.iordOther 18) := by decide

/-- A transaction and an `IRQ_ACK` outside a frame, a host operation inside one, and a step of each agent. -/
theorem witness_AgentsActInTurn :
    decode (slot .txn [0x02, 0x00, 0x02]) = .ok .iord2 ∧ (slot .txn [0x02, 0x00, 0x02]).format ≠ .hostop ∧
      decode (slot .hostop [15]) = .ok .irqAck ∧ decode (slot .hostop [1]) = .ok .hardReset ∧
      Instr.hardReset ≠ .irqAck ∧ State.reset.inFrame = false ∧ State.reset.disposed = false ∧ presented.inFrame = true ∧
      presented.disposed = false ∧ (∃ t, step presented = .next t) ∧
      ∃ t, step (State.reset.presentInTurn (slot .hostop [1])) = .next t := by
  refine ⟨by decide, by decide, by decide, by decide, by decide, rfl, rfl, rfl, rfl, ⟨_, rfl⟩, ⟨_, rfl⟩⟩

theorem witness_DisposeEndsTheInstance :
    (presented.withDisposed true).pending = [slot .txn [0x02, 0x00, 0x02]] ∧ (presented.withDisposed true).disposed = true ∧
      decode (slot .txn [0x02, 0x00, 0x02]) = .ok .iord2 ∧ isConstruct .iord2 = false ∧
      decode (slot .hostop [0]) = .ok (.construct noArgs.con) ∧ (State.reset.withDisposed true).inFrame = false := by decide

theorem witness_DispatcherServesTheRow :
    (Instr.iordOther 0xFFFF).wf = true ∧ instrTransaction (.iordOther 0xFFFF) = some (.iord 0xFFFF) ∧
      Transaction.fits State.reset.cfg (.iord 0xFFFF) = true ∧ Transaction.fits State.reset.cfg (.iord 0x10000) = false := by
  decide

theorem witness_EveryStepKeepsRanges :
    paramsOk State.reset.cfg = true ∧ InRange State.reset ∧ ∃ t, step State.reset = .next t :=
  ⟨defaults_accepted, reset_inRange, _, rfl⟩

theorem witness_EveryStepKeepsTheSession :
    Sound inSession ∧
      (∀ s rest i, inSession.pending = s :: rest → decode s = .ok i → isLoad i = false) ∧
      ∃ t, step inSession = .next t :=
  ⟨inSession_sound, inSession_loads_nothing, _, rfl⟩

theorem witness_NoStepReadsAnEmptyQueue : Sound inSession := inSession_sound

theorem witness_EveryStepKeepsTheLinesAndTheFlag :
    (∀ s rest i, inSession.pending = s :: rest → decode s = .ok i → isLoad i = false) ∧
      (∃ t, step inSession = .next t) ∧ LinesReleased inSession.link ∧ ActiveMatches inSession.link :=
  ⟨inSession_loads_nothing, ⟨_, rfl⟩, rfl, fun _ => trivial⟩

/-- Each clause: an access to the link in a session, and a frame with the other treatment of VRAM's end. -/
theorem witness_OperationsComplete :
    (Sound inSession ∧ isConditional .iord0 = false ∧ mayReachVram .iord0 = false) ∧
      (let s : State := { State.reset with cfg := { defaultParams with vramOob := .sentinel } }
       Sound s ∧ s.cfg.vramOob = .sentinel ∧ isConditional .frameAdvance = false ∧ EngineFits s.engine s.cfg) :=
  ⟨⟨inSession_sound, rfl, rfl⟩, ⟨by decide, .of_inactive rfl⟩, rfl, rfl, fun _ _ => rfl⟩

/-- Two states that differ in what `bare` leaves out, with a frame that completes from both. -/
theorem witness_SameStateSameResults :
    let t : State := { State.reset with
      hooks := { read := false, write := true, poll := true }, reply := .accepted, delivered := [1],
      link := { Link.reset with testCount := 3 } }
    bare State.reset = bare t ∧ State.reset ≠ t ∧ (∃ u, runAll [.frameAdvance] State.reset = .next u) ∧
      ∃ w, runAll [.frameAdvance] t = .next w := by
  refine ⟨rfl, by decide, ⟨_, rfl⟩, ⟨_, rfl⟩⟩

theorem witness_ConstructionInputsFixed : (∃ t, exec .irqAck State.reset = .next t) ∧ isConstruct .irqAck = false :=
  ⟨⟨_, rfl⟩, rfl⟩

/-- A transaction none of the clauses names, and one of each that a clause leaves out. -/
theorem witness_BusFootprint :
    (∃ u, serve (.iord 2) State.reset = .next u) ∧ (∃ u, serve (.iowr 16 1) State.reset = .next u) ∧
      (∃ u, serve (.memwr 0x8000 1) State.reset = .next u) ∧ Transaction.iord 2 ≠ .iord 17 ∧
      (∀ v, Transaction.iord 2 ≠ .iowr 17 v) ∧ (∀ a v, Transaction.iord 2 ≠ .memwr a v) ∧ Transaction.iord 2 ≠ .iord 0 ∧
      Transaction.iord 2 ≠ .iord 1 :=
  ⟨⟨_, rfl⟩, ⟨_, rfl⟩, ⟨_, rfl⟩, by decide, by simp, by simp, by decide, by decide⟩

theorem witness_TraceHooksOnlyObserve : ∃ u, serve (.memrd 0xFFFF) State.reset = .next u := ⟨_, rfl⟩

theorem default_map : DefaultMap defaultParams := ⟨rfl, rfl, rfl, rfl⟩

/-- The largest bank, under the default map; and another accepted map, with the last address of low ROM, the first and the last
of the window, the first and the last of RAM, and the last of all. -/
theorem witness_MemrdRowsReadTheirRegion :
    let p : Params := { defaultParams with lowEnd := 0x2000, ramBase := 0x4000, ramSize := 0x4000 }
    DefaultMap (banked 7 1).cfg ∧ (banked 7 1).map.bankLow < 2 ^ (banked 7 1).cfg.bankLowBits ∧ mapOk p = true ∧
      0x1FFF < p.lowEnd ∧ (p.lowEnd ≤ 0x2000 ∧ 0x3FFF < p.ramBase) ∧
      (p.ramBase ≤ 0x4000 ∧ 0x7FFF < p.ramBase + p.ramSize) ∧ 0xFFFF < 2 ^ p.addrBits :=
  ⟨default_map, by decide, by decide, by decide, by decide, by decide, by decide⟩

theorem witness_MemwrRowsStoreOnlyInRam : DefaultMap State.reset.cfg := default_map

/-- The first and the last byte of RAM. -/
theorem witness_RamRoundTrip :
    InRange State.reset ∧ mapOk State.reset.cfg = true ∧ State.reset.cfg.ramBase ≤ 0x8000 ∧
      0xFFFF < State.reset.cfg.ramBase + State.reset.cfg.ramSize :=
  ⟨reset_inRange, by decide, by decide, by decide⟩

/-- The last byte below RAM and the last byte of bank 0. -/
theorem witness_RomIsReadOnly :
    mapOk State.reset.cfg = true ∧ 0x7FFF < State.reset.cfg.ramBase ∧
      0x3FFF < State.reset.cfg.lowEnd := by decide

/-- With half the RAM, the first and the last address of the hole. -/
theorem witness_UnmappedAddresses :
    let p : Params := { defaultParams with ramSize := 0x4000 }
    mapOk p = true ∧ p.ramBase + p.ramSize ≤ 0xC000 ∧ p.ramBase + p.ramSize ≤ 0xFFFF ∧ 0xFFFF < 2 ^ p.addrBits ∧
      DefaultMap defaultParams :=
  ⟨by decide, by decide, by decide, by decide, default_map⟩

/-- `link_active` = 0; then, with `link_active` = 1, the last byte of the low bank under both filter scopes and the first
byte above it; and no session. -/
theorem witness_PortZeroAccesses :
    let act : State := linked { Link.reset with active := true }
    let low : State := { act with cpu := { pc := 0x3FFF, block := [] } }
    let high : State := { act with cpu := { pc := 0x4000, block := [] } }
    State.reset.link.active = false ∧ State.reset.link.phase = .inactive ∧
      (low.cpu.pc < low.cfg.lowEnd ∧ low.cfg.filterScope = .tickOnly ∧ low.link.active = true) ∧
      ({ low with cfg := { defaultParams with filterScope := .wholeWrite } } : State).cfg.filterScope = .wholeWrite ∧
      (Sound high ∧ high.link.active = true ∧ high.cfg.lowEnd ≤ high.cpu.pc) :=
  ⟨by decide, by decide, by decide, by decide, ⟨defaults_accepted, .of_inactive rfl⟩, by decide, by decide⟩

/-- A link inside a byte. -/
def inByte (ph : LinkPhase) (k : Nat) (o i : BitVec 2) : State :=
  linked { Link.reset with phase := ph, bits := 8, bitStep := k, lineOut := o, lineIn := i, toSend := 1 }

/-- A wait of each kind, with the condition false by one line. -/
theorem witness_StalledTicksChangeNothing :
    (inByte .receive 4 0 2).link.combined ≠ 0 ∧ (inByte .receive 2 1 0).link.combined ≠ 3 ∧
      (inByte .send 5 0 0).link.combined = 3 ∧ (inByte .send 3 1 0).link.lineOut ≠ 0 ∧
      (inByte .prepareSend 0 0 0).link.combined = 3 ∧ (inByte .prepareSend 0 0 0).link.phase = .prepareSend := by decide

/-- V-LK1, V-LK2 and V-LK5: the last byte and one before it, writes ticking or not, both treatments of the Prepare
transition. -/
theorem witness_ReceiveExchange :
    (∀ q, ExchangeStart (linked (Link.reset.startReceive q .test))) ∧
      (Link.reset.startReceive [0xA5] .test).phase = .prepareReceive ∧
      (Link.reset.startReceive [0xA5] .test).queue = [0xA5] ∧ (Link.reset.startReceive [0xA5] .test).cont = .test ∧
      (Link.reset.startReceive [1, 0x80] .test).queue = [1, 0x80] ∧
      (∃ l, ({ Link.reset with cont := .test, bitStep := 1 } : Link).runContinuation defaultParams = .ok l) ∧
      (let s : State := linked { Link.reset.startReceive [0xA5] .test with active := true }
       ExchangeStart { s with cpu := { pc := 0x4000, block := [] } } ∧ s.link.active = true ∧
         s.cfg.lowEnd ≤ 0x4000) ∧
      defaultParams.prepareFallthrough = true ∧
      ({ defaultParams with prepareFallthrough := false } : Params).prepareFallthrough = false :=
  ⟨fun _ => ⟨rfl, rfl, rfl, rfl⟩, by decide, by decide, by decide, by decide, ⟨_, rfl⟩,
    ⟨⟨rfl, rfl, rfl, rfl⟩, rfl, by decide⟩, rfl, rfl⟩

/-- V-LK6: the last byte and one before it, and a line pulled where the Prepare transition stands alone. -/
theorem witness_SendExchange :
    (∀ n, ExchangeStart (linked (Link.reset.startSend n .test))) ∧
      (Link.reset.startSend 1 .test).phase = .prepareSend ∧ (Link.reset.startSend 1 .test).toSend = 1 ∧
      (Link.reset.startSend 1 .test).cont = .test ∧ (Link.reset.startSend 1 .test).active = false ∧
      (Link.reset.startSend 2 .test).toSend ≠ 0 ∧ (Link.reset.startSend 2 .test).toSend ≠ 1 ∧
      (∃ l, ({ Link.reset with cont := .test, queue := [0x3C] } : Link).runContinuation defaultParams = .ok l) ∧
      ({ Link.reset.startSend 1 .test with lineOut := 1 } : Link).combined ≠ 3 :=
  ⟨fun _ => ⟨rfl, rfl, rfl, rfl⟩, by decide, by decide, by decide, by decide, by decide, by decide, ⟨_, rfl⟩, by decide⟩

/-- The last tick of a `Receive` phase, with the continuation `c` and the file `f`. -/
def receiveEnd (c : Continuation) (f : Option OpenFile) : Link :=
  { Link.reset with phase := .receive, bits := 1, bitStep := 1, active := true, cont := c, file := f }

/-- No file, a file with 12 bytes left, and one with 13. -/
theorem witness_StagesAfterReceive :
    (receiveEnd .receiveReqAck none).phase = .receive ∧ (receiveEnd .receiveReqAck none).bitStep = 1 ∧
      (receiveEnd .receiveReqAck none).bits = 1 ∧ (receiveEnd .receiveReqAck none).queue = [] ∧
      (receiveEnd .receiveReqAck none).cont = .receiveReqAck ∧ (receiveEnd .receiveDataAck none).cont = .receiveDataAck ∧
      (receiveEnd .finalize none).cont = .finalize ∧
      (∀ f, (receiveEnd .finalize none).file = some f → f.bytes.length < f.pos + 13) ∧
      (∀ f, (receiveEnd .finalize (some { bytes := List.replicate 20 0, pos := 8 })).file = some f →
        f.bytes.length < f.pos + 13) ∧
      (let f : OpenFile := { bytes := List.replicate 20 0, pos := 7 }
       (receiveEnd .finalize (some f)).file = some f ∧ f.pos + 13 ≤ f.bytes.length) := by
  refine ⟨rfl, rfl, rfl, rfl, rfl, rfl, rfl, fun f h => ?_, fun f h => ?_, rfl, by decide⟩
  · cases h
  · cases h
    decide

/-- The last tick of a `Send` phase. -/
def sendEnd (c : Continuation) (q : List Byte) : Link :=
  { Link.reset with phase := .send, bits := 1, bitStep := 1, toSend := 1, cont := c, queue := q }

/-- The acknowledgements of V-LP1 and V-LP2. -/
theorem witness_StagesAfterSend :
    (sendEnd .sendVariableData [3, 0x56, 0, 0, 3, 0x36, 0]).phase = .send ∧
      (sendEnd .sendVariableData [3, 0x56, 0, 0, 3, 0x36, 0]).toSend = 1 ∧
      (sendEnd .sendVariableData [3, 0x56, 0, 0, 3, 0x36, 0]).queue = [3, 0x56, 0, 0, 3, 0x36, 0] ∧
      (0x36 : Byte) = defaultParams.linkOomSentinel ∧ (0x09 : Byte) ≠ defaultParams.linkOomSentinel ∧
      (sendEnd .endTransmission [1]).cont = .endTransmission ∧ (sendEnd .endOutOfMemory [1]).cont = .endOutOfMemory := by
  decide

theorem witness_KeyboardRead :
    State.reset.pollFeed = [] ∧ ({ State.reset with hooks := noArgs.con.hooks } : State).hooks.poll = false ∧
      ({ State.reset with pollFeed := [[asc "6"]] } : State).hooks.poll = true ∧
      ({ State.reset with pollFeed := [[asc "6"]] } : State).pollFeed = [[asc "6"]] := by decide

/-- V-K9: two pressed buttons on bit 7, which cancel, and V-K6: one; with the mask of V-K6, another set of names that agrees on the
selected group alone; the button `6` of group 2, bit 2 (S8), and the mask that enables no group. -/
theorem witness_MatrixClearsExactlyThePressedBit :
    (pressedOnBit (holding [asc "DEL", asc "ALPHA"] 0x9F false) 0x9F 7 = 2 ∧
      pressedOnBit (holding [asc "2ND", asc "ALPHA"] 0xDF false) 0xDF 7 = 1) ∧
    (∀ g, g < 7 → (0xDF : Byte).getLsbD g = false → ∀ e ∈ defaultParams.keymap.getD g [],
      (e.1 ∈ [asc "ALPHA", asc "DEL"] ↔ (holding [asc "2ND", asc "ALPHA"] 0xDF false).btn e.1 = true)) ∧
    keymapOk defaultParams.keymap = true ∧ (∃ g, defaultParams.keymap[2]? = some g ∧ (asc "6", 2) ∈ g) ∧
      (∀ n, (holding [asc "6"] 0xFB false).btn n = true ↔ n = asc "6") ∧ State.reset.buttons = [] ∧
      (∀ g, g < 7 → (0x7F : Byte).getLsbD g = true) := by
  refine ⟨by decide, by decide, by decide, ⟨_, rfl, by decide⟩, fun n => ?_, rfl, by decide⟩
  simp [State.btn, holding]

theorem witness_OtherPorts :
    0xFFFF < 2 ^ State.reset.cfg.portBits ∧ 5 ≠ 0 ∧ 5 ≠ 1 ∧ 5 ≠ 3 ∧ 5 ≠ 4 ∧ 5 ≠ 17 ∧ 0xFFFF ≠ 17 ∧
      4 ≠ 0 ∧ 4 ≠ 1 ∧ 4 ≠ 2 ∧ 4 ≠ 3 ∧ 4 ≠ 16 ∧ 4 ≠ 17 := by decide

theorem witness_MappingAndStatusPorts :
    State.reset.cfg.stOnUp = 0x08 ∧ State.reset.cfg.stLinkIdle = 0x02 := by decide

theorem witness_ModeAndRowCommands :
    (1 : Byte).toNat ≤ 1 ∧ 0x80 ≤ (0x80 : Byte).toNat ∧ (0xBF : Byte).toNat ≤ 0xBF := by decide

theorem witness_DirectionAndColumnCommands :
    4 ≤ (4 : Byte).toNat ∧ (7 : Byte).toNat ≤ 7 ∧ 0x40 ≤ (0x40 : Byte).toNat ∧ (0x7F : Byte).toNat ≤ 0x7F := by decide

theorem witness_DisplayNoOps :
    (2 : Byte).toNat = 2 ∧ (3 : Byte).toNat = 3 ∧ 8 ≤ (8 : Byte).toNat ∧ (63 : Byte).toNat ≤ 63 ∧
      0xC0 ≤ (0xC0 : Byte).toNat := by decide

/-- After a position command, with either treatment. -/
theorem witness_StaleRead :
    ({ State.reset with disp := { Display.reset with moved := true } } : State).disp.moved = true ∧
      defaultParams.staleReadAdvances = true ∧
      ({ defaultParams with staleReadAdvances := false } : Params).staleReadAdvances = false := by decide

/-- The last byte of VRAM. -/
theorem witness_ByteModeAccess :
    (showing 1 0 11 63 []).disp.mode = 1 ∧
      (showing 1 0 11 63 []).disp.y.toNat * 12 + (showing 1 0 11 63 []).disp.x.toNat < 768 ∧
      (showing 1 0 11 63 []).disp.moved = false := by decide

/-- The last cell of the last row, and the last offset the row above reaches. -/
theorem witness_PackedModeRead :
    (showing 0 0 15 63 []).disp.mode = 0 ∧ (showing 0 0 15 63 []).disp.moved = false ∧
      (showing 0 0 15 63 []).disp.offset0 < 768 ∧ (showing 0 0 31 62 []).disp.offset0 < 768 := by decide

/-- The last cell in range, one past column 15, and the first past the end of the last row. -/
theorem witness_PackedModeWrite :
    (∀ x y, InRange (showing 0 0 x y [])) ∧ (showing 0 0 15 63 []).disp.mode = 0 ∧
      (showing 0 0 15 63 []).disp.offset0 < 768 ∧ (showing 0 0 31 62 []).disp.offset0 < 768 ∧
      768 ≤ (showing 0 0 16 63 []).disp.offset0 :=
  ⟨fun _ _ => ⟨rfl, rfl, rfl, rfl, rfl, rfl, of_decide_eq_true rfl, of_decide_eq_true rfl, of_decide_eq_true rfl, Nat.zero_le 8,
    Nat.zero_le 5, rfl⟩, by decide, by decide, by decide,
    by decide⟩

/-- `VRAM_OOB` = sentinel over the display at a cell. -/
def sentinelAt (m : BitVec 1) (x : BitVec 5) (y : BitVec 6) : State :=
  { showing m 0 x y [] with cfg := { defaultParams with vramOob := .sentinel } }

/-- Both sides of each boundary: rows 62 and 63 in mode 1, row 63 in mode 0; and the first offset past VRAM in each mode. -/
theorem witness_AccessesBeyondVram :
    (faultsOnVram (exec .iord17 (showing 1 0 12 63 [])) = true ∧
      faultsOnVram (exec .iord17 (showing 1 0 11 63 [])) = false ∧
      faultsOnVram (exec (.iowr17 0) (showing 1 0 24 62 [])) = true ∧
      faultsOnVram (exec (.iowr17 0) (showing 1 0 23 62 [])) = false ∧
      faultsOnVram (exec .iord17 (showing 0 0 16 63 [])) = true ∧
      faultsOnVram (exec .iord17 (showing 0 0 15 63 [])) = false) ∧
    ((sentinelAt 1 12 63).cfg.vramOob = .sentinel ∧ (sentinelAt 1 12 63).disp.moved = false ∧
      (sentinelAt 1 12 63).disp.mode = 1 ∧
      768 ≤ (sentinelAt 1 12 63).disp.y.toNat * 12 + (sentinelAt 1 12 63).disp.x.toNat ∧
      (sentinelAt 0 16 63).disp.mode = 0 ∧ (sentinelAt 0 16 63).disp.y = 63 ∧
      16 ≤ (sentinelAt 0 16 63).disp.x.toNat) := by decide

theorem witness_CellReadBack :
    InRange (showing 1 0 11 63 []) ∧ (∃ t, exec (.iowr17 0xA5) (showing 1 0 11 63 []) = .next t) ∧
      (showing 1 0 11 63 []).disp.offset1 < 768 ∧ InRange (showing 0 0 15 63 []) ∧
      (∃ t, exec (.iowr17 0xA5) (showing 0 0 15 63 []) = .next t) ∧ (showing 0 0 15 63 []).disp.x.toNat ≤ 15 :=
  ⟨⟨rfl, rfl, rfl, rfl, rfl, rfl, by decide, by decide, by decide, by decide, by decide, rfl⟩, ⟨_, rfl⟩, by decide,
    ⟨rfl, rfl, rfl, rfl, rfl, rfl, by decide, by decide, by decide, by decide, by decide, rfl⟩, ⟨_, rfl⟩, by decide⟩

theorem witness_SilentFrameAndAcknowledge :
    engineRun State.reset.engine State.reset.cpu State.reset.cfg.cyclesPerBurst = .done ∧
      0 < State.reset.cfg.burstsPerFrame := by decide

/-- A frame without a poll and one with a poll. -/
theorem witness_LagLaw :
    let polling : State := { State.reset with engine := engineOf (.bus (.iord 1) .done) }
    (∃ t, exec .frameAdvance State.reset = .next t) ∧ (∃ t, exec .frameAdvance polling = .next t) ∧
      frameTouchesPort1 State.reset = false ∧ frameTouchesPort1 polling = true ∧
      0 < State.reset.cfg.burstsPerFrame := by
  refine ⟨⟨_, rfl⟩, ⟨_, rfl⟩, by decide, by decide, by decide⟩

theorem witness_Construct :
    let size (p : Params) : Nat := 2 ^ (p.bankLowBits + 1) * (p.ramBase - p.lowEnd)
    paramsOk noArgs.con.params = true ∧ noArgs.con.rom.size = size noArgs.con.params ∧
      ¬ (withImage { size := 0x3FFFF, cells := [] }).rom.size = size defaultParams ∧
      paramsOk { defaultParams with bankLowBits := 9, addrBits := 20, portBits := 20 } = true ∧
      paramsOk { defaultParams with addrBits := 15 } = false ∧ (0x3FFFF : Nat) < noArgs.con.rom.size := by decide

/-- V-LP4's inputs and `F1`: a failure of each check, at its shortest, and a container that passes; and with other offsets a file
that ends in the middle of its size field, and one that ends in the middle of its checksum. -/
theorem witness_SendFileValidation :
    let p := defaultParams
    State.reset.link.phase = .inactive ∧ State.reset.link.file = none ∧
      ¬ (f1.take 5).take 11 = p.linkMagic.toList ∧
      ((f1.take 54).take 11 = p.linkMagic.toList ∧ ¬ p.linkDataStart ≤ (f1.take 54).length) ∧
      (p.linkSizeOffset + 2 ≤ f1.length ∧ p.linkDataStart + 18 + 2 ≤ f1.length) ∧
      (54 ≤ (f1.take 54).length ∧ ¬ p.linkSizeOffset + 2 ≤ (f1.take 54).length) ∧
      ((f1.take 74).length = le16At f1 p.linkSizeOffset + 56 ∧ ¬ p.linkDataStart + 18 + 2 ≤ (f1.take 74).length) ∧
      ((f1.take 55).take 11 = p.linkMagic.toList ∧
        ¬ (f1.take 55).length = le16At (f1.take 55) p.linkSizeOffset + p.linkOverhead) ∧
      (p.linkDataStart ≤ f1.length ∧ f1.length = le16At f1 p.linkSizeOffset + p.linkOverhead) ∧
      (((f1.drop p.linkDataStart).take 18).map BitVec.toNat).sum % 65536 = le16At f1 (p.linkDataStart + 18) ∧
      ¬ ((((f1.take 74 ++ [1]).drop p.linkDataStart).take 18).map BitVec.toNat).sum % 65536 =
        le16At (f1.take 74 ++ [1]) (p.linkDataStart + 18) := by decide

/-- A session; a container without an entry (57 bytes, V-LP5 (a)); a container with one. -/
theorem witness_SendFileStartsTheRequest :
    inSession.link.phase ≠ .inactive ∧
      (let none57 := f1.take 53 ++ [0, 0, 0, 0]
       validateContainer defaultParams none57 = none ∧ none57.length < defaultParams.linkDataStart + 13) ∧
      validateContainer defaultParams f1 = none ∧ defaultParams.linkDataStart + 13 ≤ f1.length := by decide

/-- After no reply, and after another error. -/
theorem witness_FormatErrorsComeFromSendFile :
    let s : State := State.reset.withReply (.formatError .badLength)
    State.reset.reply ≠ .formatError .badSignature ∧ s.reply ≠ .formatError .badSignature ∧
      exec (.sendFile []) State.reset = .next (State.reset.withReply (.formatError .badSignature)) ∧
      exec (.sendFile []) s = .next (s.withReply (.formatError .badSignature)) := ⟨by decide, by decide, rfl, rfl⟩

theorem default_names : TextNamesOk defaultParams :=
  ⟨by decide, by decide, by decide, by decide, List.Perm.refl _⟩

theorem silent_text_ok : EngineTextOk silentEngine defaultParams where
  law := engineLoad_saveCpu_plain silentEngine _ rfl rfl
  closes c := by
    have h : silentEngine.closeMark.head? = some 0x5B := by decide
    have hp : ∀ v, (fieldLine pcKey v).head? = some 0x50 := fun _ => rfl
    have hb : ∀ v, (fieldLine blockKey v).head? = some 0x42 := fun _ => rfl
    intro hm
    have hm : silentEngine.closeMark ∈ plainCpu c := hm
    simp only [plainCpu, List.mem_cons, List.not_mem_nil, or_false] at hm
    obtain hm | hm := hm <;> rw [hm] at h
    · rw [hp] at h
      revert h
      decide
    · rw [hb] at h
      revert h
      decide
  noSpace := by decide
  notEnd := by decide

/-- Another state of the same instance, with the same inputs, and one of another instance. -/
theorem witness_SaveLoadRoundTrip :
    let s' : State := { State.reset with disp := { Display.reset with x := 7 }, ram := [(3, 4)] }
    InRange State.reset ∧ TextNamesOk State.reset.cfg ∧ EngineTextOk State.reset.engine State.reset.cfg ∧
      State.reset.link.cont ≠ .test ∧
      s'.origin = State.reset.origin ∧ ({ s' with startPc := 1 } : State).origin ≠ State.reset.origin ∧
      s'.buttons = State.reset.buttons ∧ s'.pollFeed = State.reset.pollFeed ∧
      s'.hooks.poll = State.reset.hooks.poll ∧ s'.inFrame = State.reset.inFrame ∧
      s'.disposed = State.reset.disposed :=
  ⟨reset_inRange, default_names, silent_text_ok, by decide, rfl,
    fun h => absurd (congrArg Origin.startPc h) (by decide), rfl, rfl, rfl, rfl, rfl⟩

/-- The last field and the three of `xfer_file`, each with a type, a value that fits and a line that does not parse. -/
theorem witness_LoadTextOfOneField_anyField :
    let keys := State.reset.cfg.textKeys
    let types := snapTypes State.reset.cfg
    (keys[32]? = some (asc "IS_LAG") ∧ types[32]? = some .flag ∧ SnapVal.fits .flag (.flag true) = true) ∧
      (keys[24]? = some (asc "XFER_OPEN") ∧ types[24]? = some .flag) ∧
      (keys[25]? = some (asc "XFER_BYTES") ∧ types[25]? = some .buf ∧ SnapVal.fits .buf (.buf [1]) = true) ∧
      (keys[26]? = some (asc "XFER_POS") ∧ types[26]? = some .num ∧ SnapVal.fits .num (.num 1) = true) ∧
      parseVal .flag (asc "1") = none ∧ parseVal .buf (asc "0") = none ∧ parseVal .num [] = none := by decide

/-- Each field written out named; the largest column that fits and the first that does not; a value that is no boolean; a block the
engine loads and one it rejects; the last ordinal of `lk_cont` and the first that is none. -/
theorem witness_LoadTextOfOneField :
    TextNamesOk State.reset.cfg ∧ spaceChar ∉ State.reset.engine.openMark ∧
      some State.reset.origin = some { cfg := State.reset.cfg, startPc := State.reset.startPc, rom := State.reset.rom,
                                       engine := State.reset.engine } ∧
      State.reset.cfg.textKeys[8]? = some (asc "DISP_X") ∧ State.reset.cfg.textKeys[2]? = some (asc "RAM") ∧
      State.reset.cfg.textKeys[3]? = some (asc "VRAM") ∧ State.reset.cfg.textKeys[0]? = some (asc "IRQ_LINE") ∧
      State.reset.cfg.textKeys[1]? = some (asc "NMI_LINE") ∧ State.reset.cfg.textKeys[23]? = some (asc "LK_CONT") ∧
      ((31 : Nat) < 32 ∧ (32 : Nat) ≤ 32) ∧ ((6 : Nat) < 7 ∧ (7 : Nat) ≤ 7) ∧
      (List.replicate 768 (0 : Byte)).length = 768 ∧ ([] : List Byte).length ≠ 768 ∧
      ([] : List Byte).length ≠ State.reset.cfg.ramSize ∧ (∃ bs : List Byte, bs.length = State.reset.cfg.ramSize) ∧
      (asc "true" ≠ asc "True" ∧ asc "true" ≠ asc "False") ∧
      State.reset.engine.openMark ≠ endMarker State.reset.cfg ∧
      (State.reset.engine.closeMark ∉ [asc "PC 65535", asc "BLOCK "] ∧
        loadCpu State.reset.cfg State.reset.engine [asc "PC 65535", asc "BLOCK "] = some { pc := 65535, block := [] }) ∧
      (State.reset.engine.closeMark ∉ [asc "PC 65536", asc "BLOCK "] ∧
        loadCpu State.reset.cfg State.reset.engine [asc "PC 65536", asc "BLOCK "] = none) ∧
      endMarker State.reset.cfg ∉ [asc "DISP_X 3"] ∧ startMarker State.reset.cfg ∉ [asc "DISP_X 3"] :=
  ⟨default_names, by decide, rfl, by decide, by decide, by decide, by decide, by decide, by decide, by decide, by decide,
    List.length_replicate, by decide, by decide, ⟨List.replicate _ 0, List.length_replicate⟩, by decide, by decide,
    by decide, by decide, by decide, by decide⟩

/-- V-H5: after a field, an unknown key and a CPU block, right before the end marker; and right after the start marker. -/
theorem witness_UnknownKeysAreSkipped :
    let front := [asc "DISP_X 31", asc "Other 2", silentEngine.openMark, asc "PC 7", asc "BLOCK ", silentEngine.closeMark]
    spaceChar ∉ asc "Bogus" ∧ asc "Bogus" ∉ State.reset.cfg.textKeys ∧ spaceChar ∉ endMarker State.reset.cfg ∧
      spaceChar ∉ State.reset.engine.openMark ∧
      betweenFields State.reset.cfg State.reset.engine false front = true ∧
      betweenFields State.reset.cfg State.reset.engine false [] = true ∧
      (∃ t, load (startMarker State.reset.cfg :: (front ++ [endMarker State.reset.cfg])) State.reset = .next t ∧
        t.reply = .notices [asc "Other"]) ∧
      load [startMarker State.reset.cfg, endMarker State.reset.cfg] State.reset =
        .next (State.reset.withReply (.notices [])) :=
  ⟨by decide, by decide, by decide, by decide, by decide, rfl, ⟨_, rfl, by decide⟩, rfl⟩

/-- The first and the last byte of RAM as the CPU addresses them. -/
theorem witness_DomainAccess :
    mapOk State.reset.cfg = true ∧ State.reset.cfg.ramBase ≤ 0x8000 ∧
      0xFFFF < State.reset.cfg.ramBase + State.reset.cfg.ramSize := by decide

/-- The last pixel. -/
theorem witness_Framebuffer : (63 : Nat) < 64 ∧ (95 : Nat) < 96 := by decide

end Sys2Proof.Tests
end

section
/-! PROOFS. Memory transactions on the bus, and the addresses in none of the three ranges (20_memory.md R70, R74). -/

namespace Sys2Proof.Machine

variable {s : State} {addr : Nat}

/-! A memory transaction at an address of the machine is always served. -/

theorem serve_memrd (h : addr < 2 ^ s.cfg.addrBits) : serve (.memrd addr) s = readMemory addr s :=
  serve_of_fits (by simpa [Transaction.fits] using h)

theorem serve_memwr (h : addr < 2 ^ s.cfg.addrBits) (v : Byte) : serve (.memwr addr v) s = writeMemory addr v s :=
  serve_of_fits (by simpa [Transaction.fits] using h)

/-! Above RAM: the order of the ranges, which an accepted map has (00_scope.md R10), puts such an address in none of them. -/

theorem lowEnd_lt_ramBase_of_mapOk {p : Params} (h : mapOk p = true) : p.lowEnd < p.ramBase := by
  simp only [mapOk, Bool.and_eq_true, decide_eq_true_eq] at h
  omega

theorem memByte_aboveRam (hmap : s.cfg.lowEnd < s.cfg.ramBase) (h : s.cfg.ramBase + s.cfg.ramSize ≤ addr) :
    s.memByte addr = 0xFF := by
  have hlow : ¬ addr < s.cfg.lowEnd := by omega
  have hwin : ¬ addr < s.cfg.ramBase := by omega
  have hram : ¬ addr - s.cfg.ramBase < s.cfg.ramSize := by omega
  rw [State.memByte, if_neg hlow, if_neg hwin, if_neg hram]

theorem storeOffset_aboveRam (h : s.cfg.ramBase + s.cfg.ramSize ≤ addr) : s.storeOffset addr = none := by
  cases hoff : s.storeOffset addr with
  | none => rfl
  | some off =>
    obtain ⟨rfl, hlt, -, -⟩ := storeOffset_eq_some hoff
    omega

/-- A `MEMWR` that stores nowhere notifies the hook and does nothing else. -/
theorem writeMemory_of_storeOffset_none (h : s.storeOffset addr = none) (v : Byte) :
    writeMemory addr v s = .next (s.notifyWrite addr) := by
  rw [writeMemory, h]

end Sys2Proof.Machine

namespace Sys2Proof.Safety

open Sys2Proof.Machine

/-- The default map's RAM ends at the last address of the machine. -/
theorem DefaultMap.ramEnd {p : Params} (h : DefaultMap p) : p.ramBase + p.ramSize = 2 ^ p.addrBits := by
  obtain ⟨hbits, -, hbase, hsize⟩ := h
  simp [hbits, hbase, hsize]

/-- Settles O24: above RAM no branch of the read or of the store applies, and the default map's RAM ends where the address
space does. -/
theorem unmappedAddresses : Obligations.UnmappedAddresses := by
  refine ⟨fun s addr v hmap hhole haddr => ⟨?read, ?write⟩, fun p addr hmap haddr => ?full⟩
  case read =>
    rw [serve_memrd haddr, readMemory_eq, memByte_aboveRam (lowEnd_lt_ramBase_of_mapOk hmap) hhole]
    rfl
  case write =>
    rw [serve_memwr haddr, writeMemory_of_storeOffset_none (storeOffset_aboveRam hhole), notifyWrite_eq]
    rfl
  case full => exact hmap.ramEnd ▸ Nat.not_le.mpr haddr

end Sys2Proof.Safety
end

section
/-! PROOFS. The display commands by the value of their byte (43_display.md R190 to R197). -/

namespace Sys2Proof.Machine

variable {s : State} {c : Byte}

/-! The display rows as operations, and the byte written to port 16. -/

theorem exec_iowr16 (c : Byte) (s : State) : exec (.iowr16 c) s = dispCommand c s := rfl

theorem exec_dispMode (m : BitVec 1) (s : State) :
    exec (.dispMode m) s = .next { s with disp := { s.disp with mode := m } } := rfl

theorem exec_dispSety (r : BitVec 6) (s : State) :
    exec (.dispSety r) s = .next { s with disp := { s.disp with y := r, moved := true } } := rfl

theorem exec_dispNop23 (n : BitVec 1) (s : State) : exec (.dispNop23 n) s = .next s := rfl

theorem exec_dispContrast (k : BitVec 6) (s : State) : exec (.dispContrast k) s = .next s := rfl

theorem exec_dispScroll8 (p : BitVec 3) (s : State) : exec (.dispScroll8 p) s = .next s := rfl

theorem exec_dispScroll16 (p : BitVec 4) (s : State) : exec (.dispScroll16 p) s = .next s := rfl

theorem exec_dispScroll32 (p : BitVec 5) (s : State) : exec (.dispScroll32 p) s = .next s := rfl

/-! The fields of a command byte as numbers: its top two bits choose among the quarters of the byte's range. -/

theorem topTwoBits_eq_iff (c : Byte) (k : BitVec 2) : c.extractLsb' 6 2 = k ↔ c.toNat / 64 = k.toNat := by
  have hc : c.toNat / 64 < 4 := by omega
  rw [← BitVec.toNat_inj, BitVec.extractLsb'_toNat, Nat.shiftRight_eq_div_pow, Nat.mod_eq_of_lt hc]

theorem lowSixBits_of_rowRange (hlo : 0x80 ≤ c.toNat) : c.extractLsb' 0 6 = BitVec.ofNat 6 (c.toNat - 0x80) := by
  apply BitVec.eq_of_toNat_eq
  rw [BitVec.extractLsb'_toNat, BitVec.toNat_ofNat, Nat.shiftRight_zero]
  omega

/-! What the byte does, by the range its value is in. -/

theorem dispCommand_of_le_one (h : c.toNat ≤ 1) : dispCommand c s = exec (.dispMode (c.extractLsb' 0 1)) s :=
  if_pos h

theorem dispCommand_of_rowRange (hlo : 0x80 ≤ c.toNat) (hhi : c.toNat ≤ 0xBF) :
    dispCommand c s = exec (.dispSety (c.extractLsb' 0 6)) s := by
  have hmode : ¬ c.toNat ≤ 1 := by omega
  have hdir : ¬ (4 ≤ c.toNat ∧ c.toNat ≤ 7) := by omega
  have hquarter : c.toNat / 64 = 2 := by omega
  have hsetx : ¬ c.extractLsb' 6 2 = 0b01#2 := by simp [topTwoBits_eq_iff, hquarter]
  have hsety : c.extractLsb' 6 2 = 0b10#2 := by simp [topTwoBits_eq_iff, hquarter]
  rw [dispCommand, if_neg hmode, if_neg hdir, if_neg hsetx, if_pos hsety]
  rfl

/-- Only four of the rules write state: a byte that sets neither mode nor direction nor a position does nothing. -/
theorem dispCommand_of_no_effect (hmode : ¬ c.toNat ≤ 1) (hdir : ¬ (4 ≤ c.toNat ∧ c.toNat ≤ 7))
    (hpos : c.toNat < 0x40 ∨ 0xC0 ≤ c.toNat) : dispCommand c s = .next s := by
  have hquarter : c.toNat / 64 ≠ 1 ∧ c.toNat / 64 ≠ 2 := by omega
  have hsetx : ¬ c.extractLsb' 6 2 = 0b01#2 := by simpa [topTwoBits_eq_iff] using hquarter.1
  have hsety : ¬ c.extractLsb' 6 2 = 0b10#2 := by simpa [topTwoBits_eq_iff] using hquarter.2
  rw [dispCommand, if_neg hmode, if_neg hdir, if_neg hsetx, if_neg hsety]
  split_ifs <;> rfl

end Sys2Proof.Machine

namespace Sys2Proof.Safety

open Sys2Proof.Machine

/-- Settles O36: the byte's range selects the row, whose operand is the byte's low bits. -/
theorem modeAndRowCommands : Obligations.ModeAndRowCommands := by
  refine fun s => ⟨fun m => exec_dispMode m s, fun c hc => ?mode, fun r => exec_dispSety r s, fun c hlo hhi => ?row⟩
  case mode =>
    rw [exec_iowr16, dispCommand_of_le_one hc, exec_dispMode]
    rfl
  case row => rw [exec_iowr16, dispCommand_of_rowRange hlo hhi, exec_dispSety, lowSixBits_of_rowRange hlo]

/-- Settles O38: no byte of the three ranges sets mode, direction or position. -/
theorem displayNoOps : Obligations.DisplayNoOps := by
  refine fun s => ⟨fun n => exec_dispNop23 n s, fun k => exec_dispContrast k s, fun x => exec_dispScroll8 x s,
    fun x => exec_dispScroll16 x s, fun x => exec_dispScroll32 x s, fun c hc => ?byte⟩
  case byte =>
    rw [exec_iowr16]
    exact dispCommand_of_no_effect (by omega) (by omega) (by omega)

end Sys2Proof.Safety
end

section
/-! PROOFS. The binary form of the state (48_host_interface.md R306). -/

namespace Sys2Proof.Machine

theorem exec_saveBinary (s : State) : exec .saveBinary s = .next (s.withReply (.bytes [])) := rfl

theorem exec_loadBinary (bytes : List Byte) (s : State) : exec (.loadBinary bytes) s = .next s := rfl

end Sys2Proof.Machine

namespace Sys2Proof.Safety

open Sys2Proof.Machine

/-- Settles O57: saving writes the reply only, and loading returns the state it was given without reading the bytes. -/
theorem binaryFormIsEmpty : Obligations.BinaryFormIsEmpty :=
  fun s bytes => ⟨exec_saveBinary s, exec_loadBinary bytes s⟩

end Sys2Proof.Safety
end

section
/-! PROOFS. The words of the operations and the rows they decode to (30_encoding.md R101, R109, R110, R122). -/

namespace Sys2Proof

/-! A word is the fields it is read by, put together again. -/

theorem extractLsb'_split {m n : Nat} (c : BitVec (m + n)) : c.extractLsb' n m ++ c.extractLsb' 0 n = c := by
  rw [BitVec.extractLsb'_append_extractLsb'_eq_extractLsb' (Nat.zero_add n).symm]
  exact BitVec.extractLsb'_eq_self

/-- A word whose high field has the value of `k` is `k` before its low field. -/
theorem append_low_of_div {m n : Nat} {c : BitVec (m + n)} {k : BitVec m} (h : c.toNat / 2 ^ n = k.toNat) :
    c = k ++ c.extractLsb' 0 n := by
  have hk : c.extractLsb' n m = k := by
    apply BitVec.eq_of_toNat_eq
    rw [BitVec.extractLsb'_toNat, Nat.shiftRight_eq_div_pow, h, Nat.mod_eq_of_lt k.isLt]
  rw [← hk, extractLsb'_split]

theorem splitWord (a : Word) : a.extractLsb' 8 8 ++ a.extractLsb' 0 8 = a := extractLsb'_split (m := 8) (n := 8) a

theorem kindByte (k : BitVec 2) :
    (0#6 ++ k : Byte).extractLsb' 2 6 = 0#6 ∧ (0#6 ++ k : Byte).extractLsb' 0 2 = k :=
  ⟨BitVec.extractLsb'_append_eq_left, BitVec.extractLsb'_append_eq_right⟩

/-! The decoder on each format's slot. -/

theorem decode_memrdSlot (a : Word) (data : List Byte) : decode (txnSlot 0b00#2 a data) = .ok (decodeMemrd a) := by
  obtain ⟨hhigh, hkind⟩ := kindByte 0b00#2
  simp only [decode, txnSlot, decodeTxn, hhigh, hkind, splitWord]
  simp

theorem decode_iordSlot (p : Word) (data : List Byte) : decode (txnSlot 0b10#2 p data) = .ok (decodeIord p) := by
  obtain ⟨hhigh, hkind⟩ := kindByte 0b10#2
  simp only [decode, txnSlot, decodeTxn, hhigh, hkind, splitWord]
  simp

theorem decode_memwrSlot (a : Word) (v : Byte) : decode (txnSlot 0b01#2 a [v]) = .ok (decodeMemwr a v) := by
  obtain ⟨hhigh, hkind⟩ := kindByte 0b01#2
  simp only [decode, txnSlot, decodeTxn, hhigh, hkind, splitWord]
  simp

theorem decode_iowrSlot (p : Word) (v : Byte) : decode (txnSlot 0b11#2 p [v]) = .ok (decodeIowr p v) := by
  obtain ⟨hhigh, hkind⟩ := kindByte 0b11#2
  simp only [decode, txnSlot, decodeTxn, hhigh, hkind, splitWord]
  simp

theorem decode_hostopSlot (h : BitVec 4) (args : HostArgs) :
    decode (hostopSlot h args) = .ok (hostOperation h args) := by
  have hhigh : (0#4 ++ h : Byte).extractLsb' 4 4 = 0#4 := BitVec.extractLsb'_append_eq_left
  have hlow : (0#4 ++ h : Byte).extractLsb' 0 4 = h := BitVec.extractLsb'_append_eq_right
  simp only [decode, hostopSlot, decodeHostop, hhigh, hlow]
  simp

/-! The regions of a memory address: its top bits are the row's. -/

theorem topTwo_of_ram (a : BitVec 15) :
    (0b1#1 ++ a : Word).extractLsb' 14 2 ≠ 0b00#2 ∧ (0b1#1 ++ a : Word).extractLsb' 14 2 ≠ 0b01#2 := by
  have htop : ((0b1#1 ++ a : Word).extractLsb' 14 2).toNat / 2 = 1 := by
    have ha := a.isLt
    have h : (0b1#1 ++ a : Word).toNat = 2 ^ 15 * (0b1#1).toNat + a.toNat := Laws.TableRow.append_toNat _ a
    rw [BitVec.extractLsb'_toNat, h, Nat.shiftRight_eq_div_pow, BitVec.toNat_ofNat]
    omega
  constructor <;> intro h <;> simp [h] at htop

/-- Every address is one of low ROM, of the window or of RAM. -/
theorem address_cases (a : Word) :
    (∃ x : BitVec 14, a = 0b00#2 ++ x) ∨ (∃ x : BitVec 14, a = 0b01#2 ++ x) ∨ (∃ x : BitVec 15, a = 0b1#1 ++ x) := by
  have ha := a.isLt
  by_cases hlow : a.toNat / 2 ^ 14 = 0
  · exact .inl ⟨_, append_low_of_div (m := 2) (n := 14) hlow⟩
  by_cases hwin : a.toNat / 2 ^ 14 = 1
  · exact .inr (.inl ⟨_, append_low_of_div (m := 2) (n := 14) hwin⟩)
  · have hram : a.toNat / 2 ^ 15 = 1 := by omega
    exact .inr (.inr ⟨_, append_low_of_div (m := 1) (n := 15) hram⟩)

theorem decodeMemrd_low (a : BitVec 14) : decodeMemrd (0b00#2 ++ a) = .memrdLow a := by
  rw [decodeMemrd, if_pos BitVec.extractLsb'_append_eq_left, BitVec.extractLsb'_append_eq_right]

theorem decodeMemrd_window (a : BitVec 14) : decodeMemrd (0b01#2 ++ a) = .memrdWindow a := by
  have htop : (0b01#2 ++ a : Word).extractLsb' 14 2 = 0b01#2 := BitVec.extractLsb'_append_eq_left
  rw [decodeMemrd, htop, if_neg (by decide), if_pos rfl, BitVec.extractLsb'_append_eq_right]

theorem decodeMemrd_ram (a : BitVec 15) : decodeMemrd (0b1#1 ++ a) = .memrdRam a := by
  obtain ⟨hlow, hwin⟩ := topTwo_of_ram a
  rw [decodeMemrd, if_neg hlow, if_neg hwin, BitVec.extractLsb'_append_eq_right]

theorem decodeMemwr_low (a : BitVec 14) (v : Byte) : decodeMemwr (0b00#2 ++ a) v = .memwrLow a v := by
  rw [decodeMemwr, if_pos BitVec.extractLsb'_append_eq_left, BitVec.extractLsb'_append_eq_right]

theorem decodeMemwr_window (a : BitVec 14) (v : Byte) : decodeMemwr (0b01#2 ++ a) v = .memwrWindow a v := by
  have htop : (0b01#2 ++ a : Word).extractLsb' 14 2 = 0b01#2 := BitVec.extractLsb'_append_eq_left
  rw [decodeMemwr, htop, if_neg (by decide), if_pos rfl, BitVec.extractLsb'_append_eq_right]

theorem decodeMemwr_ram (a : BitVec 15) (v : Byte) : decodeMemwr (0b1#1 ++ a) v = .memwrRam a v := by
  obtain ⟨hlow, hwin⟩ := topTwo_of_ram a
  rw [decodeMemwr, if_neg hlow, if_neg hwin, BitVec.extractLsb'_append_eq_right]

/-! The port rows: the listed numbers have rows of their own, and every other number is an any-other-port row. -/

theorem isOtherPort_iff (p : Word) :
    isOtherPort p = true ↔ p ≠ 0 ∧ p ≠ 1 ∧ p ≠ 2 ∧ p ≠ 3 ∧ p ≠ 4 ∧ p ≠ 16 ∧ p ≠ 17 := by
  simp [isOtherPort, listedPorts]

theorem decodeIord_other {p : Word} (h : isOtherPort p = true) : decodeIord p = .iordOther p := by
  obtain ⟨h0, h1, h2, h3, h4, h16, h17⟩ := (isOtherPort_iff p).1 h
  rw [decodeIord, if_neg h0, if_neg h1, if_neg h2, if_neg h3, if_neg h4, if_neg h16, if_neg h17]

theorem decodeIowr_other {p : Word} (h : isOtherPort p = true) (v : Byte) : decodeIowr p v = .iowrOther p v := by
  obtain ⟨h0, h1, h2, h3, h4, h16, h17⟩ := (isOtherPort_iff p).1 h
  rw [decodeIowr, if_neg h0, if_neg h1, if_neg h2, if_neg h3, if_neg h4, if_neg h16, if_neg h17]

/-- Every port number is a listed one or an other port. -/
theorem port_cases (p : Word) :
    p = 0 ∨ p = 1 ∨ p = 2 ∨ p = 3 ∨ p = 4 ∨ p = 16 ∨ p = 17 ∨ isOtherPort p = true := by
  rw [isOtherPort_iff]
  tauto

/-! The command rows: a byte that starts with a row's fixed bits is that row's (R109, R110). -/

theorem decodeDcmd_dispMode (m : BitVec 1) : decodeDcmd (0b0000000#7 ++ m) = .dispMode m := by decide +revert

theorem decodeDcmd_dispNop23 (n : BitVec 1) : decodeDcmd (0b0000001#7 ++ n) = .dispNop23 n := by decide +revert

theorem decodeDcmd_dispDir (d : BitVec 2) : decodeDcmd (0b000001#6 ++ d) = .dispDir d := by decide +revert

theorem decodeDcmd_dispScroll8 (x : BitVec 3) : decodeDcmd (0b00001#5 ++ x) = .dispScroll8 x := by decide +revert

theorem decodeDcmd_dispScroll16 (x : BitVec 4) : decodeDcmd (0b0001#4 ++ x) = .dispScroll16 x := by decide +revert

theorem decodeDcmd_dispScroll32 (x : BitVec 5) : decodeDcmd (0b001#3 ++ x) = .dispScroll32 x := by decide +revert

theorem decodeDcmd_dispSetx (u : BitVec 1) (x : BitVec 5) : decodeDcmd (0b01#2 ++ u ++ x) = .dispSetx u x := by
  decide +revert

theorem decodeDcmd_dispSety (r : BitVec 6) : decodeDcmd (0b10#2 ++ r) = .dispSety r := by decide +revert

theorem decodeDcmd_dispContrast (k : BitVec 6) : decodeDcmd (0b11#2 ++ k) = .dispContrast k := by decide +revert

/-- Every byte is one of the nine rows' (R109): the ranges of the table leave none out. -/
theorem command_cases {P : Byte → Prop} (mode : ∀ m : BitVec 1, P (0b0000000#7 ++ m))
    (nop23 : ∀ n : BitVec 1, P (0b0000001#7 ++ n)) (dir : ∀ d : BitVec 2, P (0b000001#6 ++ d))
    (scroll8 : ∀ x : BitVec 3, P (0b00001#5 ++ x)) (scroll16 : ∀ x : BitVec 4, P (0b0001#4 ++ x))
    (scroll32 : ∀ x : BitVec 5, P (0b001#3 ++ x)) (setx : ∀ (u : BitVec 1) (x : BitVec 5), P (0b01#2 ++ u ++ x))
    (sety : ∀ r : BitVec 6, P (0b10#2 ++ r)) (contrast : ∀ k : BitVec 6, P (0b11#2 ++ k)) (c : Byte) : P c := by
  have hc := c.isLt
  have row {m n : Nat} {c : BitVec (m + n)} (k : BitVec m) {P : BitVec (m + n) → Prop} (hrow : ∀ x : BitVec n, P (k ++ x))
      (h : c.toNat / 2 ^ n = k.toNat) : P c := append_low_of_div h ▸ hrow _
  by_cases h2 : c.toNat < 2
  · exact row (m := 7) (n := 1) 0b0000000#7 mode (by simp; omega)
  by_cases h4 : c.toNat < 4
  · exact row (m := 7) (n := 1) 0b0000001#7 nop23 (by simp; omega)
  by_cases h8 : c.toNat < 8
  · exact row (m := 6) (n := 2) 0b000001#6 dir (by simp; omega)
  by_cases h16 : c.toNat < 16
  · exact row (m := 5) (n := 3) 0b00001#5 scroll8 (by simp; omega)
  by_cases h32 : c.toNat < 32
  · exact row (m := 4) (n := 4) 0b0001#4 scroll16 (by simp; omega)
  by_cases h64 : c.toNat < 64
  · exact row (m := 3) (n := 5) 0b001#3 scroll32 (by simp; omega)
  by_cases h96 : c.toNat < 96
  · exact row (m := 3) (n := 5) (0b01#2 ++ 0b0#1) (setx 0) (by simp; omega)
  by_cases h128 : c.toNat < 128
  · exact row (m := 3) (n := 5) (0b01#2 ++ 0b1#1) (setx 1) (by simp; omega)
  by_cases h192 : c.toNat < 192
  · exact row (m := 2) (n := 6) 0b10#2 sety (by simp; omega)
  · exact row (m := 2) (n := 6) 0b11#2 contrast (by simp; omega)

/-! What a word decodes to encodes to the word again, and is the transaction of the word (R101, R109). -/

section Words

open Sys2Proof.Machine

theorem encode_decodeMemrd (a : Word) : encode (decodeMemrd a) = txnSlot 0b00#2 a [] := by
  obtain ⟨x, rfl⟩ | ⟨x, rfl⟩ | ⟨x, rfl⟩ := address_cases a
  · rw [decodeMemrd_low]; rfl
  · rw [decodeMemrd_window]; rfl
  · rw [decodeMemrd_ram]; rfl

theorem instrTransaction_decodeMemrd (a : Word) : instrTransaction (decodeMemrd a) = some (.memrd a.toNat) := by
  obtain ⟨x, rfl⟩ | ⟨x, rfl⟩ | ⟨x, rfl⟩ := address_cases a
  · rw [decodeMemrd_low, lowAddr_eq]; rfl
  · rw [decodeMemrd_window, windowAddr_eq]; rfl
  · rw [decodeMemrd_ram, ramAddr_eq]; rfl

theorem encode_decodeMemwr (a : Word) (v : Byte) : encode (decodeMemwr a v) = txnSlot 0b01#2 a [v] := by
  obtain ⟨x, rfl⟩ | ⟨x, rfl⟩ | ⟨x, rfl⟩ := address_cases a
  · rw [decodeMemwr_low]; rfl
  · rw [decodeMemwr_window]; rfl
  · rw [decodeMemwr_ram]; rfl

theorem instrTransaction_decodeMemwr (a : Word) (v : Byte) :
    instrTransaction (decodeMemwr a v) = some (.memwr a.toNat v) := by
  obtain ⟨x, rfl⟩ | ⟨x, rfl⟩ | ⟨x, rfl⟩ := address_cases a
  · rw [decodeMemwr_low, lowAddr_eq]; rfl
  · rw [decodeMemwr_window, windowAddr_eq]; rfl
  · rw [decodeMemwr_ram, ramAddr_eq]; rfl

theorem encode_decodeIord (p : Word) : encode (decodeIord p) = txnSlot 0b10#2 p [] := by
  obtain rfl | rfl | rfl | rfl | rfl | rfl | rfl | h := port_cases p
  case inr.inr.inr.inr.inr.inr.inr => rw [decodeIord_other h]; rfl
  all_goals rfl

theorem instrTransaction_decodeIord (p : Word) : instrTransaction (decodeIord p) = some (.iord p.toNat) := by
  obtain rfl | rfl | rfl | rfl | rfl | rfl | rfl | h := port_cases p
  case inr.inr.inr.inr.inr.inr.inr => rw [decodeIord_other h]; rfl
  all_goals rfl

theorem encode_decodeIowr (p : Word) (v : Byte) : encode (decodeIowr p v) = txnSlot 0b11#2 p [v] := by
  obtain rfl | rfl | rfl | rfl | rfl | rfl | rfl | h := port_cases p
  case inr.inr.inr.inr.inr.inr.inr => rw [decodeIowr_other h]; rfl
  all_goals rfl

theorem instrTransaction_decodeIowr (p : Word) (v : Byte) :
    instrTransaction (decodeIowr p v) = some (.iowr p.toNat v) := by
  obtain rfl | rfl | rfl | rfl | rfl | rfl | rfl | h := port_cases p
  case inr.inr.inr.inr.inr.inr.inr => rw [decodeIowr_other h]; rfl
  all_goals rfl

theorem encode_decodeDcmd (c : Byte) : encode (decodeDcmd c) = dcmdSlot c := by
  induction c using command_cases with
  | mode m => rw [decodeDcmd_dispMode]; rfl
  | nop23 n => rw [decodeDcmd_dispNop23]; rfl
  | dir d => rw [decodeDcmd_dispDir]; rfl
  | scroll8 x => rw [decodeDcmd_dispScroll8]; rfl
  | scroll16 x => rw [decodeDcmd_dispScroll16]; rfl
  | scroll32 x => rw [decodeDcmd_dispScroll32]; rfl
  | setx u x => rw [decodeDcmd_dispSetx]; rfl
  | sety r => rw [decodeDcmd_dispSety]; rfl
  | contrast k => rw [decodeDcmd_dispContrast]; rfl

theorem instrTransaction_decodeDcmd (c : Byte) : instrTransaction (decodeDcmd c) = some (.iowr 16 c) := by
  induction c using command_cases with
  | mode m => rw [decodeDcmd_dispMode]; rfl
  | nop23 n => rw [decodeDcmd_dispNop23]; rfl
  | dir d => rw [decodeDcmd_dispDir]; rfl
  | scroll8 x => rw [decodeDcmd_dispScroll8]; rfl
  | scroll16 x => rw [decodeDcmd_dispScroll16]; rfl
  | scroll32 x => rw [decodeDcmd_dispScroll32]; rfl
  | setx u x => rw [decodeDcmd_dispSetx]; rfl
  | sety r => rw [decodeDcmd_dispSety]; rfl
  | contrast k => rw [decodeDcmd_dispContrast]; rfl

end Words

end Sys2Proof

namespace Sys2Proof.Safety

open Sys2Proof.Machine

/-- Settles O1, row by row: each format's slot is read back by its format's decoder, and the fixed bits of the word choose the
row. -/
theorem decodeOfEncode : Obligations.DecodeOfEncode := by
  intro i hwf
  cases i with
  | dispMode m => exact congrArg Except.ok (decodeDcmd_dispMode m)
  | dispNop23 n => exact congrArg Except.ok (decodeDcmd_dispNop23 n)
  | dispDir d => exact congrArg Except.ok (decodeDcmd_dispDir d)
  | dispScroll8 x => exact congrArg Except.ok (decodeDcmd_dispScroll8 x)
  | dispScroll16 x => exact congrArg Except.ok (decodeDcmd_dispScroll16 x)
  | dispScroll32 x => exact congrArg Except.ok (decodeDcmd_dispScroll32 x)
  | dispSetx u x => exact congrArg Except.ok (decodeDcmd_dispSetx u x)
  | dispSety r => exact congrArg Except.ok (decodeDcmd_dispSety r)
  | dispContrast k => exact congrArg Except.ok (decodeDcmd_dispContrast k)
  | memrdLow a => exact (decode_memrdSlot _ []).trans (congrArg Except.ok (decodeMemrd_low a))
  | memrdWindow a => exact (decode_memrdSlot _ []).trans (congrArg Except.ok (decodeMemrd_window a))
  | memrdRam a => exact (decode_memrdSlot _ []).trans (congrArg Except.ok (decodeMemrd_ram a))
  | memwrLow a v => exact (decode_memwrSlot _ v).trans (congrArg Except.ok (decodeMemwr_low a v))
  | memwrWindow a v => exact (decode_memwrSlot _ v).trans (congrArg Except.ok (decodeMemwr_window a v))
  | memwrRam a v => exact (decode_memwrSlot _ v).trans (congrArg Except.ok (decodeMemwr_ram a v))
  | iordOther p => exact (decode_iordSlot p []).trans (congrArg Except.ok (decodeIord_other hwf))
  | iowrOther p v => exact (decode_iowrSlot p v).trans (congrArg Except.ok (decodeIowr_other hwf v))
  | iord0 | iord1 | iord2 | iord3 | iord4 | iord16 | iord17 => exact decode_iordSlot _ []
  | iowr0 v | iowr1 v | iowr2 v | iowr3 v | iowr4 v | iowr16 v | iowr17 v => exact decode_iowrSlot _ v
  | construct | hardReset | frameAdvance | sendFile | saveText | loadText | saveBinary | loadBinary | domainRead
  | domainWrite | getFramebuffer | setButtons | getCounter | setCounter | dispose | irqAck =>
    exact decode_hostopSlot _ _

/-- Settles O2: the address's region, the port's number and the command's range choose the row, and its operands are the rest
of the word. -/
theorem transactionAndCommandWords : Obligations.TransactionAndCommandWords :=
  ⟨fun a => ⟨encode_decodeMemrd a, instrTransaction_decodeMemrd a⟩,
    fun a v => ⟨encode_decodeMemwr a v, instrTransaction_decodeMemwr a v⟩,
    fun p => ⟨encode_decodeIord p, instrTransaction_decodeIord p⟩,
    fun p v => ⟨encode_decodeIowr p v, instrTransaction_decodeIowr p v⟩,
    fun c => ⟨encode_decodeDcmd c, instrTransaction_decodeDcmd c⟩⟩

/-- Settles O3: the decoder evaluated on the words written out. -/
theorem tableWordsDecode : Obligations.TableWordsDecode := by
  unfold Obligations.TableWordsDecode
  decide

end Sys2Proof.Safety
end

section
/-! PROOFS. The Dispatcher and the step: which row a transaction is, and whose turn an operation has (00_scope.md R7,
41_memory_dispatch.md R150, 42_port_dispatch.md R160, 43_display.md R190). -/

namespace Sys2Proof.Machine

variable {s t : State} {c : Byte}

/-! The two position commands that are left, by the range of their byte (R192, R193). -/

theorem exec_dispDir (d : BitVec 2) (s : State) :
    exec (.dispDir d) s = .next { s with disp := { s.disp with dir := d } } := rfl

theorem exec_dispSetx (u : BitVec 1) (x : BitVec 5) (s : State) :
    exec (.dispSetx u x) s = .next { s with disp := { s.disp with x := x, moved := true } } := rfl

theorem dispCommand_of_dirRange (hlo : 4 ≤ c.toNat) (hhi : c.toNat ≤ 7) :
    dispCommand c s = exec (.dispDir (c.extractLsb' 0 2)) s := by
  have hmode : ¬ c.toNat ≤ 1 := by omega
  rw [dispCommand, if_neg hmode, if_pos ⟨hlo, hhi⟩]
  rfl

theorem dispCommand_of_columnRange (hlo : 0x40 ≤ c.toNat) (hhi : c.toNat ≤ 0x7F) :
    dispCommand c s = exec (.dispSetx (c.extractLsb' 5 1) (c.extractLsb' 0 5)) s := by
  have hmode : ¬ c.toNat ≤ 1 := by omega
  have hdir : ¬ (4 ≤ c.toNat ∧ c.toNat ≤ 7) := by omega
  have hquarter : c.toNat / 64 = 1 := by omega
  have hsetx : c.extractLsb' 6 2 = 0b01#2 := by simp [topTwoBits_eq_iff, hquarter]
  rw [dispCommand, if_neg hmode, if_neg hdir, if_pos hsetx]
  rfl

/-- Exactly one rule fires per byte written, and it is the command the byte decodes to (R109). -/
theorem exec_decodeDcmd (c : Byte) (s : State) : exec (decodeDcmd c) s = dispCommand c s := by
  have value {m n : Nat} (k : BitVec m) (x : BitVec n) : (k ++ x).toNat = 2 ^ n * k.toNat + x.toNat :=
    Laws.TableRow.append_toNat k x
  induction c using command_cases with
  | mode m =>
    have hv : (0b0000000#7 ++ m : Byte).toNat = 2 ^ 1 * 0 + m.toNat := value _ m
    rw [decodeDcmd_dispMode, dispCommand_of_le_one (by omega), BitVec.extractLsb'_append_eq_right]
  | nop23 n =>
    have hv : (0b0000001#7 ++ n : Byte).toNat = 2 ^ 1 * 1 + n.toNat := value _ n
    rw [decodeDcmd_dispNop23, dispCommand_of_no_effect (by omega) (by omega) (by omega), exec_dispNop23]
  | dir d =>
    have hv : (0b000001#6 ++ d : Byte).toNat = 2 ^ 2 * 1 + d.toNat := value _ d
    rw [decodeDcmd_dispDir, dispCommand_of_dirRange (by omega) (by omega), BitVec.extractLsb'_append_eq_right]
  | scroll8 x =>
    have hv : (0b00001#5 ++ x : Byte).toNat = 2 ^ 3 * 1 + x.toNat := value _ x
    rw [decodeDcmd_dispScroll8, dispCommand_of_no_effect (by omega) (by omega) (by omega), exec_dispScroll8]
  | scroll16 x =>
    have hv : (0b0001#4 ++ x : Byte).toNat = 2 ^ 4 * 1 + x.toNat := value _ x
    rw [decodeDcmd_dispScroll16, dispCommand_of_no_effect (by omega) (by omega) (by omega), exec_dispScroll16]
  | scroll32 x =>
    have hv : (0b001#3 ++ x : Byte).toNat = 2 ^ 5 * 1 + x.toNat := value _ x
    rw [decodeDcmd_dispScroll32, dispCommand_of_no_effect (by omega) (by omega) (by omega), exec_dispScroll32]
  | setx u x =>
    have hv : (0b01#2 ++ u ++ x : Byte).toNat = 2 ^ 5 * (0b01#2 ++ u).toNat + x.toNat := value _ x
    have hu : (0b01#2 ++ u).toNat = 2 ^ 1 * 1 + u.toNat := value _ u
    rw [decodeDcmd_dispSetx, dispCommand_of_columnRange (by omega) (by omega), BitVec.extractLsb'_append_eq_right]
    rfl
  | sety r =>
    have hv : (0b10#2 ++ r : Byte).toNat = 2 ^ 6 * 2 + r.toNat := value _ r
    rw [decodeDcmd_dispSety, dispCommand_of_rowRange (by omega) (by omega), BitVec.extractLsb'_append_eq_right]
  | contrast k =>
    have hv : (0b11#2 ++ k : Byte).toNat = 2 ^ 6 * 3 + k.toNat := value _ k
    rw [decodeDcmd_dispContrast, dispCommand_of_no_effect (by omega) (by omega) (by omega), exec_dispContrast]

/-! The ports without a handler of their own (42_port_dispatch.md R165, R170, R172, R175, R176). -/

theorem portRead_default {p : Nat} (h0 : p ≠ 0) (h1 : p ≠ 1) (h3 : p ≠ 3) (h4 : p ≠ 4) (h17 : p ≠ 17) :
    portRead p s = .next { s with delivered := s.delivered ++ [0xFF] } := by
  rw [portRead, if_neg h0, if_neg h1, if_neg h3, if_neg h4, if_neg h17]
  split_ifs <;> rfl

theorem portWrite_default {p : Nat} (h0 : p ≠ 0) (h1 : p ≠ 1) (h2 : p ≠ 2) (h3 : p ≠ 3) (h16 : p ≠ 16) (h17 : p ≠ 17)
    (v : Byte) : portWrite p v s = .next s := by
  rw [portWrite, if_neg h0, if_neg h1, if_neg h2, if_neg h3, if_neg h16, if_neg h17]
  split_ifs <;> rfl

theorem toNat_of_isOtherPort {p : Word} (h : isOtherPort p = true) :
    p.toNat ≠ 0 ∧ p.toNat ≠ 1 ∧ p.toNat ≠ 2 ∧ p.toNat ≠ 3 ∧ p.toNat ≠ 16 ∧ p.toNat ≠ 4 ∧ p.toNat ≠ 17 := by
  obtain ⟨h0, h1, h2, h3, h4, h16, h17⟩ := (isOtherPort_iff p).1 h
  have key : ∀ q : Word, p ≠ q → p.toNat ≠ q.toNat := fun q hq h => hq (BitVec.eq_of_toNat_eq h)
  exact ⟨key 0 h0, key 1 h1, key 2 h2, key 3 h3, key 16 h16, key 4 h4, key 17 h17⟩

/-- The operation of a transaction's row is what the Dispatcher does with the transaction. -/
theorem exec_eq_dispatch {i : Instr} {u : Transaction} (hwf : i.wf = true) (h : instrTransaction i = some u) (s : State) :
    exec i s = dispatch u s := by
  cases i
  case dispMode m => cases h; exact decodeDcmd_dispMode m ▸ exec_decodeDcmd _ s
  case dispNop23 n => cases h; exact decodeDcmd_dispNop23 n ▸ exec_decodeDcmd _ s
  case dispDir d => cases h; exact decodeDcmd_dispDir d ▸ exec_decodeDcmd _ s
  case dispScroll8 x => cases h; exact decodeDcmd_dispScroll8 x ▸ exec_decodeDcmd _ s
  case dispScroll16 x => cases h; exact decodeDcmd_dispScroll16 x ▸ exec_decodeDcmd _ s
  case dispScroll32 x => cases h; exact decodeDcmd_dispScroll32 x ▸ exec_decodeDcmd _ s
  case dispSetx u x => cases h; exact decodeDcmd_dispSetx u x ▸ exec_decodeDcmd _ s
  case dispSety r => cases h; exact decodeDcmd_dispSety r ▸ exec_decodeDcmd _ s
  case dispContrast k => cases h; exact decodeDcmd_dispContrast k ▸ exec_decodeDcmd _ s
  case iordOther p =>
    cases h
    obtain ⟨h0, h1, -, h3, -, h4, h17⟩ := toNat_of_isOtherPort hwf
    exact (portRead_default h0 h1 h3 h4 h17).symm
  case iowrOther p v =>
    cases h
    obtain ⟨h0, h1, h2, h3, h16, -, h17⟩ := toNat_of_isOtherPort hwf
    exact (portWrite_default h0 h1 h2 h3 h16 h17 v).symm
  all_goals cases h <;> rfl

/-! The decoder's results: a command, a transaction's row, or a host operation with its arguments. -/

theorem decodeTxn_cases {bytes : List Byte} {i : Instr} (h : decodeTxn bytes = .ok i) :
    (∃ a, i = decodeMemrd a) ∨ (∃ a v, i = decodeMemwr a v) ∨ (∃ p, i = decodeIord p) ∨ (∃ p v, i = decodeIowr p v) := by
  unfold decodeTxn at h
  split at h
  · rename_i b0 b1 b2 data
    by_cases hreserved : b2.extractLsb' 2 6 ≠ 0#6
    · rw [if_pos hreserved] at h; cases h
    by_cases hmemrd : b2.extractLsb' 0 2 = 0b00#2
    · rw [if_neg hreserved, if_pos hmemrd] at h; cases h; exact .inl ⟨_, rfl⟩
    by_cases hiord : b2.extractLsb' 0 2 = 0b10#2
    · rw [if_neg hreserved, if_neg hmemrd, if_pos hiord] at h; cases h; exact .inr (.inr (.inl ⟨_, rfl⟩))
    rw [if_neg hreserved, if_neg hmemrd, if_neg hiord] at h
    split at h
    · cases h
    · split at h <;> cases h
      · exact .inr (.inl ⟨_, _, rfl⟩)
      · exact .inr (.inr (.inr ⟨_, _, rfl⟩))
  · cases h

theorem decodeHostop_cases {bytes : List Byte} {args : HostArgs} {i : Instr} (h : decodeHostop bytes args = .ok i) :
    ∃ n, i = hostOperation n args := by
  unfold decodeHostop at h
  split at h
  · split_ifs at h
    cases h
    exact ⟨_, rfl⟩
  · cases h

theorem instrTransaction_decodeTxn {bytes : List Byte} {i : Instr} (h : decodeTxn bytes = .ok i) :
    ∃ u, instrTransaction i = some u := by
  obtain ⟨a, rfl⟩ | ⟨a, v, rfl⟩ | ⟨p, rfl⟩ | ⟨p, v, rfl⟩ := decodeTxn_cases h
  · exact ⟨_, instrTransaction_decodeMemrd a⟩
  · exact ⟨_, instrTransaction_decodeMemwr a v⟩
  · exact ⟨_, instrTransaction_decodeIord p⟩
  · exact ⟨_, instrTransaction_decodeIowr p v⟩

theorem instrTransaction_hostOperation (n : BitVec 4) (args : HostArgs) : instrTransaction (hostOperation n args) = none := by
  obtain ⟨k, hk⟩ := n
  interval_cases k <;> rfl

/-- Which agent an operation belongs to is seen from its format, `IRQ_ACK` excepted (00_scope.md R7). -/
theorem byEngine_iff_format {slot : Slot} {i : Instr} (h : decode slot = .ok i) :
    byEngine i = true ↔ slot.format ≠ .hostop ∨ i = .irqAck := by
  unfold decode at h
  cases hf : slot.format <;> simp only [hf] at h
  case dcmd =>
    split at h
    · cases h
      simp [byEngine, instrTransaction_decodeDcmd]
    · cases h
  case txn =>
    obtain ⟨u, hu⟩ := instrTransaction_decodeTxn h
    simp [byEngine, hu]
  case hostop =>
    obtain ⟨n, rfl⟩ := decodeHostop_cases h
    simp [byEngine, instrTransaction_hostOperation]

theorem wf_decodeMemrd (a : Word) : (decodeMemrd a).wf = true := by
  unfold decodeMemrd
  split_ifs <;> rfl

theorem wf_decodeMemwr (a : Word) (v : Byte) : (decodeMemwr a v).wf = true := by
  unfold decodeMemwr
  split_ifs <;> rfl

theorem wf_decodeIord (p : Word) : (decodeIord p).wf = true := by
  obtain rfl | rfl | rfl | rfl | rfl | rfl | rfl | h := port_cases p
  case inr.inr.inr.inr.inr.inr.inr => rw [decodeIord_other h]; exact h
  all_goals rfl

theorem wf_decodeIowr (p : Word) (v : Byte) : (decodeIowr p v).wf = true := by
  obtain rfl | rfl | rfl | rfl | rfl | rfl | rfl | h := port_cases p
  case inr.inr.inr.inr.inr.inr.inr => rw [decodeIowr_other h]; exact h
  all_goals rfl

theorem wf_decodeDcmd (c : Byte) : (decodeDcmd c).wf = true := by
  unfold decodeDcmd
  split_ifs <;> rfl

theorem wf_hostOperation (n : BitVec 4) (args : HostArgs) : (hostOperation n args).wf = true := by
  obtain ⟨k, hk⟩ := n
  interval_cases k <;> rfl

/-- The decoder yields operations of CORE only (entry 9). -/
theorem wf_of_decode {slot : Slot} {i : Instr} (h : decode slot = .ok i) : i.wf = true := by
  unfold decode at h
  cases hf : slot.format <;> simp only [hf] at h
  case dcmd =>
    split at h
    · cases h; exact wf_decodeDcmd _
    · cases h
  case txn =>
    obtain ⟨a, rfl⟩ | ⟨a, v, rfl⟩ | ⟨p, rfl⟩ | ⟨p, v, rfl⟩ := decodeTxn_cases h
    · exact wf_decodeMemrd a
    · exact wf_decodeMemwr a v
    · exact wf_decodeIord p
    · exact wf_decodeIowr p v
  case hostop =>
    obtain ⟨n, rfl⟩ := decodeHostop_cases h
    exact wf_hostOperation n _

/-! A step, by what the next presented operation decodes to. -/

section Presented

variable {slot : Slot} {rest : List Slot} {i : Instr} (hp : s.pending = slot :: rest) (hd : decode slot = .ok i)

include hp hd

theorem step_of_decode :
    step s = if accepts i s then runInTurn i (s.withPending rest) else .refused .instanceDisposed := by
  simp only [step, runNext, hp, runSlot, hd]
  rfl

theorem step_of_accepted (h : s.disposed = false) : step s = runInTurn i (s.withPending rest) := by
  rw [step_of_decode hp hd, if_pos (by simp [accepts, h])]

theorem step_of_disposed (h : s.disposed = true) (hi : isConstruct i = false) : step s = .refused .instanceDisposed := by
  rw [step_of_decode hp hd, if_neg (by simp [accepts, h, hi])]

end Presented

end Sys2Proof.Machine

namespace Sys2Proof.Safety

open Sys2Proof.Machine

/-- Settles O4: a step is `runInTurn` of the operation, whose gates on the agent and on the address are open. -/
theorem stepRunsTheDecodedOperation : Obligations.StepRunsTheDecodedOperation := by
  intro s slot rest i hp hd hlive hturn
  rw [step_of_accepted hp hd hlive, runInTurn]
  have hframe : (s.withPending rest).inFrame = byEngine i := hturn.symm
  refine ⟨fun hfits => ?_, fun t ht hfits => ?_⟩
  · have hreach : reaches i (s.withPending rest) = true := by
      unfold reaches
      split
      · exact hfits _ (by assumption)
      · rfl
    rw [hframe, hreach]
    cases byEngine i <;> rfl
  · have hengine : byEngine i = true := by simp [byEngine, ht]
    have hreach : reaches i (s.withPending rest) = false := by
      simp only [reaches, ht]
      exact hfits
    rw [hframe, hengine, hreach]
    rfl

/-- Settles O5: nothing presented and bytes that do not decode are the two ways a step runs nothing, and each format's decoder
yields well-formed terms. -/
theorem stepStopsByName : Obligations.StepStopsByName := by
  refine ⟨fun s hp => ?_, fun s slot rest e hp hd => ?_, fun slot i => wf_of_decode⟩
  · simp only [step, runNext, hp]
  · simp only [step, runNext, hp, runSlot, hd]

/-- Settles O7: the gate on `disposed` stands before the gate on the agent, and `CONSTRUCT` passes both outside a frame. -/
theorem disposeEndsTheInstance : Obligations.DisposeEndsTheInstance := by
  refine ⟨fun s => rfl, fun s slot rest i hdead hp hd hi => step_of_disposed hp hd hdead hi,
    fun s slot rest args hframe hp hd => ?_⟩
  have haccepts : accepts (.construct args) s = true := by simp [accepts, isConstruct]
  have hturn : (s.withPending rest).inFrame = false := hframe
  rw [step_of_decode hp hd, if_pos haccepts, runInTurn, hturn]
  rfl

/-- Settles O8: within the widths the Dispatcher selects the row's own meaning, and `IOWR 16` is the command its byte decodes
to. -/
theorem dispatcherServesTheRow : Obligations.DispatcherServesTheRow :=
  ⟨fun _ _ s hwf h hfits => (serve_of_fits hfits).trans (exec_eq_dispatch hwf h s).symm,
    fun _ _ hfits => serve_of_not_fits hfits, fun c s => (exec_decodeDcmd c s).symm⟩

/-- Settles O34: none of these ports has a handler of its own. -/
theorem otherPorts : Obligations.OtherPorts := by
  refine fun s v => ⟨fun p hp h0 h1 h3 h4 h17 => ?_, rfl, rfl, fun p => rfl, fun p hp h0 h1 h2 h3 h16 h17 => ?_, rfl,
    fun p => rfl⟩
  · rw [serve_of_fits (by simpa [Transaction.fits] using hp)]
    exact portRead_default h0 h1 h3 h4 h17
  · rw [serve_of_fits (by simpa [Transaction.fits] using hp)]
    exact portWrite_default h0 h1 h2 h3 h16 h17 v

/-- Settles O37: the byte's range selects the row, whose operand is the byte's low bits. -/
theorem directionAndColumnCommands : Obligations.DirectionAndColumnCommands := by
  refine fun s => ⟨fun d => exec_dispDir d s, fun c hlo hhi => ?dir, fun u x => exec_dispSetx u x s,
    fun c hlo hhi => ?column⟩
  case dir =>
    have hlow : c.extractLsb' 0 2 = BitVec.ofNat 2 (c.toNat - 4) := by
      apply BitVec.eq_of_toNat_eq
      rw [BitVec.extractLsb'_toNat, BitVec.toNat_ofNat, Nat.shiftRight_zero]
      omega
    rw [exec_iowr16, dispCommand_of_dirRange hlo hhi, exec_dispDir, hlow]
  case column =>
    have hlow : c.extractLsb' 0 5 = BitVec.ofNat 5 (c.toNat % 32) := by
      apply BitVec.eq_of_toNat_eq
      rw [BitVec.extractLsb'_toNat, BitVec.toNat_ofNat, Nat.shiftRight_zero]
      omega
    rw [exec_iowr16, dispCommand_of_columnRange hlo hhi, exec_dispSetx, hlow]

end Sys2Proof.Safety
end

section
/-! PROOFS. What each bus transaction can change (20_memory.md R70, R87, 60_exceptions.md R332, 42_port_dispatch.md). -/

namespace Sys2Proof.Machine

open Sys2Proof.Safety

variable {s t : State}

/-! The reads and writes by port number: each handler's frame. -/

/-- What an access to port 0 does to the link: `link_out` is loaded, and a tick follows or none does. -/
inductive LinkAccess (p : Params) (l l' : Link) : Prop
  | loaded (v : BitVec 2) (h : l' = { l with lineOut := v })
  | ticked (v : BitVec 2) (h : ({ l with lineOut := v } : Link).tick p = .ok l')

theorem execIord0_next (h : execIord0 s = .next t) :
    ∃ l, s.link.tick s.cfg = .ok l ∧ t = (s.withLink l).deliver (s.withLink l).port0Value := by
  obtain ⟨u, hu, hd⟩ := andThen_eq_next.1 h
  obtain ⟨l, hl, rfl⟩ := tick_eq_next.1 hu
  cases hd
  exact ⟨l, hl, rfl⟩

theorem execIowr0_next {v : Byte} (h : execIowr0 v s = .next t) :
    ∃ m l, t = (s.withMap { s.map with bankHigh := m }).withLink l ∧ LinkAccess s.cfg s.link l := by
  obtain h' | h' | h' := execIowr0_cases v s <;> rw [h'] at h
  · cases h
    exact ⟨s.map.bankHigh, s.link, rfl, .loaded s.link.lineOut rfl⟩
  · cases h
    exact ⟨_, _, rfl, .loaded _ rfl⟩
  · obtain ⟨l, hl, rfl⟩ := tick_eq_next.1 h
    exact ⟨port0BankHigh s.cfg v, l, rfl, .ticked _ hl⟩

theorem execIord1_next (h : execIord1 s = .next t) :
    ∃ b f log v, t = ((((s.clearLagFlag).withButtons b).withPollFeed f).withHookLog log).deliver v := by
  unfold execIord1 at h
  obtain ⟨-, hh⟩ | ⟨-, -, hh⟩ | ⟨names, rest, -, -, hh⟩ := pollHook_cases (s := s.clearLagFlag) <;> rw [hh] at h <;> cases h
  · exact ⟨s.buttons, s.pollFeed, s.hookLog, _, rfl⟩
  · exact ⟨s.buttons, s.pollFeed, _, _, rfl⟩
  · exact ⟨_, rest, _, _, rfl⟩

theorem dispDataRead_next (h : dispDataRead s = .next t) : ∃ d v, t = (s.withDisp d).deliver v := by
  obtain ⟨-, hh⟩ | ⟨-, v, hh⟩ | ⟨-, -, hh⟩ := dispDataRead_cases (s := s) <;> rw [hh] at h <;> cases h
  · obtain ⟨d, hd⟩ := staleRead_eq (s := s)
    exact ⟨d, 0x00, hd⟩
  · exact ⟨_, v, rfl⟩

theorem dispDataWrite_next {v : Byte} (h : dispDataWrite v s = .next t) :
    ∃ m, t = (s.withVram m).moveCursor := by
  obtain ⟨m, hh⟩ | ⟨-, -, -, hh⟩ := dispDataWrite_cases (s := s) v <;> rw [hh] at h <;> cases h
  exact ⟨m, rfl⟩

/-- A read of a port, by its number. -/
theorem portRead_next {p : Nat} (h : portRead p s = .next t) :
    (p = 0 ∧ ∃ l, s.link.tick s.cfg = .ok l ∧ t = (s.withLink l).deliver (s.withLink l).port0Value) ∨
    (p = 1 ∧ ∃ b f log v, t = ((((s.clearLagFlag).withButtons b).withPollFeed f).withHookLog log).deliver v) ∨
    (p = 17 ∧ ∃ d v, t = (s.withDisp d).deliver v) ∨
    (p ≠ 0 ∧ p ≠ 1 ∧ p ≠ 17 ∧ ∃ v, t = s.deliver v) := by
  by_cases h0 : p = 0
  · subst h0; exact .inl ⟨rfl, execIord0_next h⟩
  by_cases h1 : p = 1
  · subst h1; exact .inr (.inl ⟨rfl, execIord1_next h⟩)
  by_cases h17 : p = 17
  · subst h17; exact .inr (.inr (.inl ⟨rfl, dispDataRead_next h⟩))
  by_cases h3 : p = 3
  · subst h3; cases h; exact .inr (.inr (.inr ⟨h0, h1, h17, _, rfl⟩))
  by_cases h4 : p = 4
  · subst h4; cases h; exact .inr (.inr (.inr ⟨h0, h1, h17, _, rfl⟩))
  · rw [portRead_default h0 h1 h3 h4 h17] at h
    cases h
    exact .inr (.inr (.inr ⟨h0, h1, h17, 0xFF, rfl⟩))

/-- A write to a port, by its number. -/
theorem portWrite_next {p : Nat} {v : Byte} (h : portWrite p v s = .next t) :
    (p = 0 ∧ ∃ m l, t = (s.withMap { s.map with bankHigh := m }).withLink l ∧ LinkAccess s.cfg s.link l) ∨
    (p = 1 ∧ t = (s.withKbd { s.kbd with keyMask := v }).clearLagFlag) ∨
    (p = 2 ∧ t = s.withMap { s.map with bankLow := port2BankLow s.cfg v }) ∨
    (p = 3 ∧ t = s.withKbd { s.kbd with maskOn := port3MaskOn v }) ∨
    (p = 16 ∧ ∃ d, t = s.withDisp d) ∨
    (p = 17 ∧ dispDataWrite v s = .next t ∧ ∃ m, t = (s.withVram m).moveCursor) ∨
    (p ≠ 1 ∧ t = s) := by
  by_cases h0 : p = 0
  · subst h0; exact .inl ⟨rfl, execIowr0_next h⟩
  by_cases h1 : p = 1
  · subst h1; cases h; exact .inr (.inl ⟨rfl, rfl⟩)
  by_cases h2 : p = 2
  · subst h2; cases h; exact .inr (.inr (.inl ⟨rfl, rfl⟩))
  by_cases h3 : p = 3
  · subst h3; cases h; exact .inr (.inr (.inr (.inl ⟨rfl, rfl⟩)))
  by_cases h16 : p = 16
  · subst h16
    obtain ⟨d, hd⟩ := dispCommand_cases (s := s) v
    cases hd.symm.trans h
    exact .inr (.inr (.inr (.inr (.inl ⟨rfl, d, rfl⟩))))
  by_cases h17 : p = 17
  · subst h17
    exact .inr (.inr (.inr (.inr (.inr (.inl ⟨rfl, h, dispDataWrite_next h⟩)))))
  · rw [portWrite_default h0 h1 h2 h3 h16 h17] at h
    cases h
    exact .inr (.inr (.inr (.inr (.inr (.inr ⟨h1, rfl⟩)))))

theorem serve_next {u : Transaction} (h : serve u s = .next t) : u.fits s.cfg = true ∧ dispatch u s = .next t := by
  cases hf : u.fits s.cfg with
  | true => exact ⟨rfl, serve_of_fits hf ▸ h⟩
  | false => rw [serve_of_not_fits hf] at h; cases h

/-- What a transaction can change, by its kind and port. -/
inductive BusEffect (s : State) : Transaction → State → Prop
  | memrd (a : Nat) (log : List HookEvent) (v : Byte) : BusEffect s (.memrd a) ((s.withHookLog log).deliver v)
  | memwr (a : Nat) (v : Byte) (log : List HookEvent) :
    BusEffect s (.memwr a v) ((s.withRam (s.ramAfter a v)).withHookLog log)
  | iord0 (l : Link) (h : s.link.tick s.cfg = .ok l) :
    BusEffect s (.iord 0) ((s.withLink l).deliver (s.withLink l).port0Value)
  | iord1 (b : List Line) (f : List (List Line)) (log : List HookEvent) (v : Byte) :
    BusEffect s (.iord 1) (((((s.clearLagFlag).withButtons b).withPollFeed f).withHookLog log).deliver v)
  | iord17 (d : Display) (v : Byte) : BusEffect s (.iord 17) ((s.withDisp d).deliver v)
  | iordElse (p : Nat) (v : Byte) (h0 : p ≠ 0) (h1 : p ≠ 1) (h17 : p ≠ 17) : BusEffect s (.iord p) (s.deliver v)
  | iowr0 (v : Byte) (m : BitVec 1) (l : Link) (h : LinkAccess s.cfg s.link l) :
    BusEffect s (.iowr 0 v) ((s.withMap { s.map with bankHigh := m }).withLink l)
  | iowr1 (v : Byte) : BusEffect s (.iowr 1 v) (s.withKbd { s.kbd with keyMask := v }).clearLagFlag
  | iowr2 (v : Byte) : BusEffect s (.iowr 2 v) (s.withMap { s.map with bankLow := port2BankLow s.cfg v })
  | iowr3 (v : Byte) : BusEffect s (.iowr 3 v) (s.withKbd { s.kbd with maskOn := port3MaskOn v })
  | iowr16 (v : Byte) (d : Display) : BusEffect s (.iowr 16 v) (s.withDisp d)
  | iowr17 (v : Byte) (m : Memory) (h : dispDataWrite v s = .next (s.withVram m).moveCursor) :
    BusEffect s (.iowr 17 v) (s.withVram m).moveCursor
  | iowrElse (p : Nat) (v : Byte) (h1 : p ≠ 1) : BusEffect s (.iowr p v) s

theorem dispatch_effect {u : Transaction} (h : dispatch u s = .next t) : BusEffect s u t := by
  cases u with
  | memrd a => rw [dispatch, readMemory_eq] at h; cases h; exact .memrd a _ _
  | memwr a v => rw [dispatch, writeMemory_eq] at h; cases h; exact .memwr a v _
  | iord p =>
    obtain ⟨rfl, l, hl, rfl⟩ | ⟨rfl, b, f, log, v, rfl⟩ | ⟨rfl, d, v, rfl⟩ | ⟨h0, h1, h17, v, rfl⟩ := portRead_next h
    · exact .iord0 l hl
    · exact .iord1 b f log v
    · exact .iord17 d v
    · exact .iordElse p v h0 h1 h17
  | iowr p v =>
    obtain ⟨rfl, m, l, rfl, hl⟩ | ⟨rfl, rfl⟩ | ⟨rfl, rfl⟩ | ⟨rfl, rfl⟩ | ⟨rfl, d, rfl⟩ | ⟨rfl, hw, m, rfl⟩ |
      ⟨h1, rfl⟩ := portWrite_next h
    · exact .iowr0 v m l hl
    · exact .iowr1 v
    · exact .iowr2 v
    · exact .iowr3 v
    · exact .iowr16 v d
    · exact .iowr17 v m hw
    · exact .iowrElse p v h1

theorem serve_effect {u : Transaction} (h : serve u s = .next t) : BusEffect s u t := dispatch_effect (serve_next h).2

/-! The matrix is a function of the buttons and the table. -/

theorem muxGroup_congr (hb : t.buttons = s.buttons) (group : List (Line × Nat)) (acc : Byte) :
    muxGroup t group acc = muxGroup s group acc := by
  induction group generalizing acc with
  | nil => rfl
  | cons e rest ih => rw [muxGroup, muxGroup, ih, State.btn, State.btn, hb]

theorem mux_congr (hb : t.buttons = s.buttons) (hk : t.cfg.keymap = s.cfg.keymap) (m : Byte) : mux t m = mux s m := by
  have hfrom (groups : List (List (Line × Nat))) (g : Nat) (acc : Byte) :
      muxFrom t m g groups acc = muxFrom s m g groups acc := by
    induction groups generalizing g acc with
    | nil => rfl
    | cons group rest ih => rw [muxFrom, muxFrom, ih, muxGroup_congr hb]
  rw [mux, mux, hk, hfrom]

/-! The value port 0 delivers (30_encoding.md R104), as the number the rule writes. -/

theorem combined_toNat (l : Link) : l.combined.toNat = 3 - (l.lineOut ||| l.lineIn).toNat := by
  have hall : ∀ x : BitVec 2, (x ^^^ 3#2).toNat = 3 - x.toNat := by decide
  exact hall _

theorem port0Value_eq (s : State) : s.port0Value =
    BitVec.ofNat 8 (16 * s.map.bankHigh.toNat + 4 * (3 - (s.link.lineOut ||| s.link.lineIn).toNat) + s.link.lineOut.toNat) := by
  have hall : ∀ (h : BitVec 1) (c o : BitVec 2), (0#3 ++ h ++ c ++ o : Byte) =
      BitVec.ofNat 8 (16 * h.toNat + 4 * c.toNat + o.toNat) := by decide
  rw [State.port0Value, hall, combined_toNat]

/-- A read of port 0 whose tick leaves the link as it is delivers the value and does nothing else. -/
theorem execIord0_of_tick_same (h : s.link.tick s.cfg = .ok s.link) :
    execIord0 s = .next { s with delivered := s.delivered ++ [s.port0Value] } := execIord0_eq h

end Sys2Proof.Machine

namespace Sys2Proof.Safety

open Sys2Proof.Machine

/-- Settles O18: the transaction's kind and port fix the groups of the state it can change. -/
theorem busFootprint : Obligations.BusFootprint := by
  intro u s t h
  cases serve_effect h with
  | memrd a log v => simp
  | memwr a v log => simp
  | iord0 l hl => simp
  | iord1 b f log v => simp [State.clearLagFlag]
  | iord17 d v => simp
  | iordElse p v h0 h1 h17 => simp
  | iowr0 v m l hl => simp
  | iowr1 v => simp [State.clearLagFlag]
  | iowr2 v => simp
  | iowr3 v => simp
  | iowr16 v d => simp
  | iowr17 v m hw => simp [State.moveCursor]
  | iowrElse p v h1 => simp

/-- Settles O25: the two filters of a write decide whether it loads and whether it ticks, and a session the rules make has a
tick without a fault. -/
theorem portZeroAccesses : Obligations.PortZeroAccesses := by
  refine fun s => ⟨fun v h => ?load, fun v hact hpc hscope => ?skip, fun v hs hact hpc => ?tick, fun hs => ?read,
    fun hidle => ?idle⟩
  case load =>
    have hskip : ¬ (s.lowBankFiltered = true ∧ s.cfg.filterScope = .wholeWrite) := by
      rintro ⟨hf, hscope⟩
      obtain hact | ⟨-, htick⟩ := h
      · simp [State.lowBankFiltered, hact] at hf
      · rw [hscope] at htick; cases htick
    have htick : ¬ (s.link.active = true ∧ ¬ s.lowBankFiltered = true) := by
      rintro ⟨hact, hf⟩
      obtain hact' | ⟨hpc, -⟩ := h
      · rw [hact] at hact'; cases hact'
      · simp [State.lowBankFiltered, hact, hpc] at hf
    show execIowr0 v s = _
    rw [execIowr0, if_neg hskip, if_neg htick]
    rfl
  case skip =>
    have hfilter : s.lowBankFiltered = true := by simp [State.lowBankFiltered, hact, hpc]
    exact if_pos ⟨hfilter, hscope⟩
  case tick =>
    have hfilter : ¬ s.lowBankFiltered = true := by simp [State.lowBankFiltered, hpc]
    obtain ⟨l, hl, -⟩ := Link.tick_session (p := s.cfg) (hs.session.of_lineOut (v.extractLsb' 0 2))
    refine ⟨l, hl, ?_⟩
    show execIowr0 v s = _
    rw [execIowr0, if_neg (fun h => hfilter h.1), if_pos ⟨hact, hfilter⟩]
    exact tick_eq_next.2 ⟨l, hl, rfl⟩
  case read =>
    obtain ⟨l, hl, -⟩ := Link.tick_session (p := s.cfg) hs.session
    exact ⟨l, hl, execIord0_eq hl⟩
  case idle =>
    have hvoid : s.link.tick s.cfg = .ok s.link := by simp [Link.tick, hidle]
    rw [← port0Value_eq]
    exact execIord0_of_tick_same hvoid

/-- Settles O26: each of the five waits keeps the link when its condition fails, and the read then delivers the value as it
stands. -/
theorem stalledTicksChangeNothing : Obligations.StalledTicksChangeNothing := by
  intro s h
  have hvoid : s.link.tick s.cfg = .ok s.link := by
    obtain ⟨hp, hb, hc⟩ | ⟨hp, hb, hc⟩ | ⟨hp, hb, hc⟩ | ⟨hp, hb, hc⟩ | ⟨hp, hc⟩ := h
    · simp [Link.tick, hp, Link.receiveStep, hb, Link.receiveAwaitAck]; exact fun h => absurd h hc
    · simp [Link.tick, hp, Link.receiveStep, hb, Link.receiveAwaitIdle]; exact fun h => absurd h hc
    · simp [Link.tick, hp, Link.sendStep, hb, Link.sendCapture, hc]
    · have hline : ¬ s.link.lineOut &&& 3 = 0 := by
        have hall : ∀ x : BitVec 2, x &&& 3 = x := by decide
        rwa [hall]
      simp only [Link.tick, hp, Link.sendStep, hb, Link.sendAwaitRelease, if_neg hline]
      rfl
    · simp [Link.tick, hp, hc]
  exact ⟨hvoid, execIord0_of_tick_same hvoid⟩

/-- Settles O31: the hook's three cases; the matrix is read of the buttons as the hook leaves them. -/
theorem keyboardRead : Obligations.KeyboardRead := by
  refine fun s => ⟨fun h => ?_, fun names rest hpoll hfeed => ?_⟩
  · have hlog : s.clearLagFlag.pollHook = s.clearLagFlag.withHookLog
        (if s.hooks.poll then s.hookLog ++ [.poll] else s.hookLog) := by
      obtain ⟨hp, hh⟩ | ⟨hp, -, hh⟩ | ⟨names, rest, hp, hf, -⟩ := pollHook_cases (s := s.clearLagFlag)
      · have hp : s.hooks.poll = false := hp
        rw [hh, hp]; rfl
      · have hp : s.hooks.poll = true := hp
        rw [hh, hp]; rfl
      · have hp : s.hooks.poll = true := hp
        have hf : s.pollFeed = names :: rest := hf
        simp [hp, hf] at h
    show execIord1 s = _
    rw [execIord1, hlog, ← mux_congr (s := s) (t := s.clearLagFlag.withHookLog _) rfl rfl]
    rfl
  · have hh : s.clearLagFlag.pollHook =
        ((s.clearLagFlag.withHookLog (s.hookLog ++ [.poll])).withPollFeed rest).holdButtons names := by
      have hp : s.clearLagFlag.hooks.poll = true := hpoll
      have hf : s.clearLagFlag.pollFeed = names :: rest := hfeed
      simp only [State.pollHook, if_pos hp, hf]
      rfl
    show execIord1 s = _
    rw [execIord1, hh, ← mux_congr (s := s.holdButtons names)
      (t := ((s.clearLagFlag.withHookLog (s.hookLog ++ [.poll])).withPollFeed rest).holdButtons names) rfl rfl]
    rfl

/-- Settles O32: the two updates of the rule, in one write. -/
theorem keyboardWrite : Obligations.KeyboardWrite := fun _ _ => rfl

/-- Settles O35: the status byte's two terms have no bit in common with the default status bits. -/
theorem mappingAndStatusPorts : Obligations.MappingAndStatusPorts := by
  refine fun s v => ⟨rfl, ?mask, rfl, fun hon hidle => ?status⟩
  case mask =>
    have hbit : v.getLsbD 0 = decide (v.toNat % 2 = 1) := by
      rw [BitVec.getLsbD, Nat.testBit_zero]
    show Host.Outcome.next (s.withKbd { s.kbd with maskOn := v.getLsbD 0 }) = _
    rw [hbit]
    rfl
  case status =>
    have hvalue : s.port3Value = BitVec.ofNat 8
        ((if s.btn onName then (if s.kbd.maskOn then 1 else 0) else 8) + (if s.link.active then 0 else 2)) := by
      unfold State.port3Value State.onStatus State.linkStatus bitByte
      rw [hon, hidle]
      cases s.btn onName <;> cases s.kbd.maskOn <;> cases s.link.active <;> rfl
    rw [← hvalue]
    rfl

end Sys2Proof.Safety
end

section
/-! PROOFS. What an operation can do, said once for every row, and the parts of the state that no operation or few operations
change (10_state.md R20, R24, 00_scope.md R7, R8, 60_exceptions.md R321). -/

namespace Sys2Proof.Machine

open Sys2Proof.Safety

variable {s t : State}

/-- The transaction is a display data access. -/
def onDataPort (u : Transaction) : Bool :=
  match u with
  | .iord p => decide (p = 17)
  | .iowr p _ => decide (p = 17)
  | .memrd _ => false
  | .memwr _ _ => false

/-- A well-formed row accesses the data port only if the table says so. -/
theorem mayReachVram_of_onDataPort {i : Instr} {u : Transaction} (hwf : i.wf = true) (h : instrTransaction i = some u)
    (hu : onDataPort u = true) : mayReachVram i = true := by
  cases i
  case iordOther p | iowrOther p v =>
    cases h
    obtain ⟨-, -, -, -, -, -, h17⟩ := toNat_of_isOtherPort hwf
    exact absurd (of_decide_eq_true hu) h17
  case iord17 | iowr17 => rfl
  all_goals cases h <;> cases hu

/-- Every operation of the engine but `IRQ_ACK` acts as some transaction does, also a term that is no operation of CORE. -/
theorem exec_as_dispatch {i : Instr} (h : byEngine i = true) (hack : i ≠ .irqAck) :
    ∃ u, (∀ s, exec i s = dispatch u s) ∧ (onDataPort u = true → mayReachVram i = true) := by
  obtain ⟨u, hu⟩ : ∃ u, instrTransaction i = some u := by
    simpa [byEngine, hack, Option.isSome_iff_exists] using h
  by_cases hwf : i.wf = true
  · exact ⟨u, exec_eq_dispatch hwf hu, mayReachVram_of_onDataPort hwf hu⟩
  · cases i
    case iordOther p => exact ⟨.iord 2, fun _ => rfl, nofun⟩
    case iowrOther p v => exact ⟨.iowr 4 v, fun _ => rfl, nofun⟩
    all_goals exact absurd rfl hwf

/-- What an operation can do, by its row. -/
inductive ExecEffect (s : State) : Instr → State → Prop
  | bus (i : Instr) (u : Transaction) {t : State} (h : BusEffect s u t) : ExecEffect s i t
  | irqAck : ExecEffect s .irqAck (s.withIrqLine false)
  | construct (args : ConstructArgs) (hp : paramsOk args.params = true) (hsize : args.rom.size = args.params.romSize) :
    ExecEffect s (.construct args) (s.constructed args)
  | hardReset : ExecEffect s .hardReset s.hardReset
  | frame {t : State} (h : execFrameAdvance s = .next t) : ExecEffect s .frameAdvance t
  | rejected (bytes : List Byte) (k : FormatKind) (hphase : s.link.phase = .inactive) (hfile : s.link.file = none)
    (hk : validateContainer s.cfg bytes = some k) : ExecEffect s (.sendFile bytes) (s.withReply (.formatError k))
  | accepted (bytes : List Byte) (f : OpenFile) (hphase : s.link.phase = .inactive) :
    ExecEffect s (.sendFile bytes)
      ((s.withLink (({ s.link with file := some f } : Link).sendNextFile s.cfg)).withReply .accepted)
  | loaded (snap : Snapshot) (a : LoadState) (h : loadLines s.cfg s.engine .before s.loadStart snap.text = some a) :
    ExecEffect s (.loadText snap) ((s.restore a.vals a.cpu).withReply (.notices a.notices))
  | report (i : Instr) (r : Reply) (hr : ∀ k, r ≠ .formatError k) : ExecEffect s i (s.withReply r)
  | nothing (i : Instr) : ExecEffect s i s
  | domainWrite (a : Nat) (v : Byte) : ExecEffect s (.domainWrite a v) (s.setRamByte (domainOffset s.cfg a) v)
  | setButtons (names b : List Line) : ExecEffect s (.setButtons names) (s.withButtons b)
  | setCounter (which : Counter) (n : Nat) (c : Counters) : ExecEffect s (.setCounter which n) (s.withCtr c)
  | dispose : ExecEffect s .dispose (s.withDisposed true)

theorem execSendFile_effect {bytes : List Byte} (h : execSendFile bytes s = .next t) :
    ExecEffect s (.sendFile bytes) t := by
  unfold execSendFile at h
  split at h
  · cases h
  · rename_i hopen
    obtain ⟨hphase, hfile⟩ : s.link.phase = .inactive ∧ s.link.file = none := by simpa using hopen
    have hsame : ({ s.link with file := none } : Link) = s.link := by rw [← hfile]
    split at h
    · rename_i k hk
      rw [raiseFormatError, hsame] at h
      cases h
      exact .rejected bytes k hphase hfile hk
    · cases h
      exact .accepted bytes _ hphase

theorem execLoadText_effect {snap : Snapshot} (h : execLoadText snap s = .next t) :
    ExecEffect s (.loadText snap) t := by
  unfold execLoadText at h
  split at h
  · split at h
    · cases h
    · rename_i a ha
      cases h
      exact .loaded snap a ha
  · cases h

theorem execConstruct_effect {args : ConstructArgs} (h : execConstruct args s = .next t) :
    ExecEffect s (.construct args) t := by
  unfold execConstruct at h
  split at h
  · rename_i hok
    cases h
    exact .construct args hok.1 hok.2
  · cases h

theorem exec_effect {i : Instr} (h : exec i s = .next t) : ExecEffect s i t := by
  by_cases hack : i = .irqAck
  · subst hack; cases h; exact .irqAck
  by_cases hbus : byEngine i = true
  · obtain ⟨u, hu, -⟩ := exec_as_dispatch hbus hack
    exact .bus i u (dispatch_effect (hu s ▸ h))
  cases i
  case construct args => exact execConstruct_effect h
  case hardReset => cases h; exact .hardReset
  case frameAdvance => exact .frame h
  case sendFile bytes => exact execSendFile_effect h
  case saveText => cases h; exact .report _ _ nofun
  case loadText snap => exact execLoadText_effect h
  case saveBinary => cases h; exact .report _ _ nofun
  case loadBinary bytes => cases h; exact .nothing _
  case domainRead a => cases h; exact .report _ _ nofun
  case domainWrite a v => cases h; exact .domainWrite a v
  case getFramebuffer => cases h; exact .report _ _ nofun
  case setButtons names => cases h; exact .setButtons names _
  case getCounter which => cases which <;> cases h <;> exact .report _ _ nofun
  case setCounter which n => cases which <;> cases h <;> exact .setCounter _ n _
  case dispose => cases h; exact .dispose
  all_goals exact absurd rfl hbus

/-! Frames: what every transaction and the frame's own updates keep, a frame keeps. -/

section Frames

variable {P : State → State → Prop} (hrefl : ∀ a, P a a) (htrans : ∀ a b c, P a b → P b c → P a c)
  (hcpu : ∀ a c, P a (a.withCpu c)) (hirq : ∀ a b, P a (a.withIrqLine b)) (hon : ∀ a, P a a.sampleOn)
  (hbus : ∀ u a b, serve u a = .next b → P a b)

include hrefl htrans hcpu hirq hon hbus

theorem burst_keeps (h : burst s = .next t) : P s t := by
  obtain ⟨u, hu, h⟩ := andThen_eq_next.1 h
  cases h
  have hrun : P s.sampleOn u := runEngine_keeps hrefl htrans hcpu (fun a => hirq a false) hbus _ none hu
  exact htrans _ _ _ (hon s) (htrans _ _ _ hrun (hirq u true))

theorem bursts_keeps {n : Nat} (h : bursts n s = .next t) : P s t := by
  induction n generalizing s with
  | zero => cases h; exact hrefl _
  | succ n ih =>
    obtain ⟨u, hu, h⟩ := andThen_eq_next.1 h
    exact htrans _ _ _ (burst_keeps hrefl htrans hcpu hirq hon hbus hu) (ih h)

theorem frame_keeps (hopen : ∀ a, P a a.openFrame) (hclose : ∀ a, P a a.closeFrame) (h : execFrameAdvance s = .next t) :
    P s t := by
  obtain ⟨u, hu, h⟩ := andThen_eq_next.1 h
  cases h
  exact htrans _ _ _ (hopen s) (htrans _ _ _ (bursts_keeps hrefl htrans hcpu hirq hon hbus hu) (hclose u))

end Frames

/-! The construction inputs and the last reply. -/

/-- What is fixed at construction, and the last reply, are the same. -/
structure SameInputs (s t : State) : Prop where
  cfg : t.cfg = s.cfg
  rom : t.rom = s.rom
  startPc : t.startPc = s.startPc
  hooks : t.hooks = s.hooks
  engine : t.engine = s.engine
  reply : t.reply = s.reply

theorem SameInputs.refl (s : State) : SameInputs s s := ⟨rfl, rfl, rfl, rfl, rfl, rfl⟩

theorem SameInputs.trans {a b c : State} (h : SameInputs a b) (h' : SameInputs b c) : SameInputs a c where
  cfg := h'.cfg.trans h.cfg
  rom := h'.rom.trans h.rom
  startPc := h'.startPc.trans h.startPc
  hooks := h'.hooks.trans h.hooks
  engine := h'.engine.trans h.engine
  reply := h'.reply.trans h.reply

theorem BusEffect.sameInputs {u : Transaction} (h : BusEffect s u t) : SameInputs s t := by
  cases h <;> constructor <;> simp [State.clearLagFlag, State.moveCursor]

theorem frame_sameInputs (h : execFrameAdvance s = .next t) : SameInputs s t :=
  frame_keeps .refl (fun _ _ _ => .trans) (fun _ _ => ⟨rfl, rfl, rfl, rfl, rfl, rfl⟩)
    (fun _ _ => ⟨rfl, rfl, rfl, rfl, rfl, rfl⟩) (fun _ => ⟨rfl, rfl, rfl, rfl, rfl, rfl⟩)
    (fun _ _ _ hu => (serve_effect hu).sameInputs) (fun _ => ⟨rfl, rfl, rfl, rfl, rfl, rfl⟩)
    (fun _ => ⟨rfl, rfl, rfl, rfl, rfl, rfl⟩) h

theorem BusEffect.inFrame_eq {u : Transaction} (h : BusEffect s u t) : t.inFrame = s.inFrame := by
  cases h <;> rfl

/-- A frame is over when it ends. -/
theorem frame_inFrame (h : execFrameAdvance s = .next t) : t.inFrame = false := by
  obtain ⟨u, -, h⟩ := andThen_eq_next.1 h
  cases h
  rfl

/-- An operation in its agent's turn leaves no frame open or closed that was not so before. -/
theorem exec_inFrame {i : Instr} (hturn : byEngine i = s.inFrame) (h : exec i s = .next t) : t.inFrame = s.inFrame := by
  cases exec_effect h with
  | bus i u hu => exact hu.inFrame_eq
  | construct args => exact hturn
  | frame h => exact (frame_inFrame h).trans hturn
  | irqAck | hardReset | rejected | accepted | loaded | report | nothing | domainWrite | setButtons | setCounter
  | dispose => rfl

end Sys2Proof.Machine

namespace Sys2Proof.Safety

open Sys2Proof.Machine

/-- Settles O6: an operation's agent is seen from its format, and an operation in its agent's turn ends in a frame exactly if it
began in one. -/
theorem agentsActInTurn : Obligations.AgentsActInTurn := by
  refine ⟨fun s slot rest i hp hd hlive hframe hagent => ?_, fun s slot rest i hp hd hlive hframe hformat hack => ?_,
    fun s t h => ?_⟩
  · have hengine : byEngine i = true := (byEngine_iff_format hd).2 hagent
    have hframe : (s.withPending rest).inFrame = false := hframe
    rw [step_of_accepted hp hd hlive, runInTurn, hengine, hframe]
    rfl
  · have hhost : byEngine i = false := by
      rw [← Bool.not_eq_true, byEngine_iff_format hd]
      simp [hformat, hack]
    have hframe : (s.withPending rest).inFrame = true := hframe
    rw [step_of_accepted hp hd hlive, runInTurn, hhost, hframe]
    rfl
  · obtain ⟨-, h1⟩ | ⟨e, h1⟩ | h1 | ⟨slot, rest, i, -, -, -, hturn, -, h1⟩ := step_cases s <;> rw [h1] at h
    · cases h; rfl
    · cases h
    · cases h
    · exact exec_inFrame (s := s.withPending rest) hturn h

/-- Settles O17: no transaction reaches a construction input, so no frame does, and of the other operations only `CONSTRUCT`
writes one. -/
theorem constructionInputsFixed : Obligations.ConstructionInputsFixed := by
  intro i s t h hi
  have of_same (h : SameInputs s t) :
      t.cfg = s.cfg ∧ t.rom = s.rom ∧ t.startPc = s.startPc ∧ t.hooks = s.hooks ∧ t.engine = s.engine :=
    ⟨h.cfg, h.rom, h.startPc, h.hooks, h.engine⟩
  cases exec_effect h with
  | bus i u hu => exact of_same hu.sameInputs
  | frame hf => exact of_same (frame_sameInputs hf)
  | construct args => cases hi
  | irqAck | hardReset | rejected | accepted | loaded | report | nothing | domainWrite | setButtons | setCounter
  | dispose => exact ⟨rfl, rfl, rfl, rfl, rfl⟩

/-- Settles O53: of the operations that write a reply only `SEND_FILE` writes a `FormatError`, and it writes nothing else. -/
theorem formatErrorsComeFromSendFile : Obligations.FormatErrorsComeFromSendFile := by
  intro i s t k h hnew hk
  have old (hs : t.reply = s.reply) : False := hnew (hs.symm.trans hk)
  cases exec_effect h with
  | rejected bytes k' hphase hfile hk' =>
    cases hk
    exact ⟨bytes, rfl, hk', rfl, hfile, hfile⟩
  | report i r hr => exact absurd hk (hr k)
  | accepted | loaded => cases hk
  | bus i u hu => exact (old hu.sameInputs.reply).elim
  | frame hf => exact (old (frame_sameInputs hf).reply).elim
  | irqAck | construct | hardReset | nothing | domainWrite | setButtons | setCounter | dispose => exact (old rfl).elim

end Sys2Proof.Safety
end

section
/-! PROOFS. The link's invariants: what every tick keeps, every access to port 0 keeps, and so every operation but `LOAD_TEXT`
(45_link_fsm.md R231 to R250, 46_link_protocol.md R262, R275). -/

namespace Sys2Proof.Machine

open Sys2Proof.Safety

variable {s t : State} {p : Params} {l l' : Link}

/-! The tick, arm by arm. -/

/-- What a continuation leaves alone, and what it leaves `link_active` at: it is run with the phase `Inactive`. -/
structure Continued (l l' : Link) : Prop where
  lineOut : l'.lineOut = l.lineOut
  lineIn : l'.lineIn = l.lineIn
  bits : l'.bits = l.bits
  bitStep : l'.bitStep = l.bitStep
  phase : l'.phase = .inactive ∨ l'.phase = .prepareReceive ∨ l'.phase = .prepareSend
  active : ActiveMatches l'

theorem Link.sendNextFile_continued (hi : l.phase = .inactive) : Continued l (l.sendNextFile p) := by
  have idle {k : Link} (h : k.phase = .inactive) : ActiveMatches k := fun hne => absurd h hne
  obtain ⟨-, h⟩ | ⟨f, -, -, h⟩ | ⟨f, -, -, h⟩ := Link.sendNextFile_cases p l <;> rw [h]
  · exact ⟨rfl, rfl, rfl, rfl, .inl hi, idle hi⟩
  · exact ⟨rfl, rfl, rfl, rfl, .inl hi, idle hi⟩
  · exact ⟨rfl, rfl, rfl, rfl, .inr (.inl rfl), fun _ => rfl⟩

theorem Link.sendVariableData_continued (h : l.sendVariableData p = .ok l') : Continued l l' := by
  unfold Link.sendVariableData at h
  split at h
  · cases h
  · split at h <;> cases h
    · exact ⟨rfl, rfl, rfl, rfl, .inr (.inr rfl), fun _ => rfl⟩
    · exact ⟨rfl, rfl, rfl, rfl, .inr (.inl rfl), fun _ => rfl⟩

theorem Link.runContinuation_continued (hi : l.phase = .inactive) (h : l.runContinuation p = .ok l') :
    Continued l l' := by
  have idle {k : Link} (h : k.phase = .inactive) : ActiveMatches k := fun hne => absurd h hne
  cases hc : l.cont <;> simp only [Link.runContinuation, hc] at h
  case none => cases h; exact ⟨rfl, rfl, rfl, rfl, .inl hi, idle hi⟩
  case receiveReqAck => cases h; exact ⟨rfl, rfl, rfl, rfl, .inr (.inr rfl), fun _ => rfl⟩
  case sendVariableData => exact Link.sendVariableData_continued h
  case receiveDataAck => cases h; exact ⟨rfl, rfl, rfl, rfl, .inr (.inr rfl), fun _ => rfl⟩
  case endTransmission => cases h; exact ⟨rfl, rfl, rfl, rfl, .inr (.inl rfl), fun _ => rfl⟩
  case endOutOfMemory => cases h; exact ⟨rfl, rfl, rfl, rfl, .inr (.inl rfl), fun _ => rfl⟩
  case finalize =>
    cases h
    obtain ⟨h0, h1, h2, h3, h4, h5⟩ :=
      Link.sendNextFile_continued (p := p) (l := { l with queue := [], active := false, cont := .none }) hi
    exact ⟨h0, h1, h2, h3, h4, h5⟩
  case test => cases h; exact ⟨rfl, rfl, rfl, rfl, .inl hi, idle hi⟩

/-- The last step of a bit: the next bit, the next byte, or the continuation with the phase `Inactive`. -/
inductive ByteEnd (l : Link) : Link → Prop
  | nextBit : ByteEnd l { l with bits := l.bits - 1, bitStep := 5 }
  | nextReceive : ByteEnd l { l with bits := l.bits - 1, phase := .prepareReceive }
  | nextSend (q : List Byte) (n : BitVec 16) :
    ByteEnd l { l with bits := l.bits - 1, queue := q, toSend := n, phase := .prepareSend }
  | done (l' : Link) (q : List Byte) (n : BitVec 16)
    (h : Continued { l with bits := l.bits - 1, queue := q, toSend := n, phase := .inactive } l') : ByteEnd l l'

theorem Link.receiveCount_end (h : l.receiveCount p = .ok l') : ByteEnd l l' := by
  unfold Link.receiveCount at h
  simp only at h
  split at h
  · split at h
    · cases h; exact .nextReceive
    · exact .done l' l.queue l.toSend (Link.runContinuation_continued rfl h)
  · cases h; exact .nextBit

theorem Link.sendCount_end (h : l.sendCount p = .ok l') : ByteEnd l l' := by
  unfold Link.sendCount at h
  simp only at h
  split at h
  · split at h
    · cases h; exact .nextSend _ _
    · exact .done l' _ _ (Link.runContinuation_continued rfl h)
  · cases h; exact .nextBit

theorem Link.receiveStep_cases (h : l.receiveStep p = .ok l') :
    (l.bitStep = 5 ∧ l' = l.receiveDrive) ∨ (l.bitStep = 4 ∧ l' = l.receiveAwaitAck) ∨
    (l.bitStep = 3 ∧ l' = l.receiveRelease) ∨ (l.bitStep = 2 ∧ l' = l.receiveAwaitIdle) ∨
    (l.bitStep = 1 ∧ ByteEnd l l') ∨ l' = l := by
  unfold Link.receiveStep at h
  split_ifs at h with h5 h4 h3 h2 h1
  · cases h; exact .inl ⟨h5, rfl⟩
  · cases h; exact .inr (.inl ⟨h4, rfl⟩)
  · cases h; exact .inr (.inr (.inl ⟨h3, rfl⟩))
  · cases h; exact .inr (.inr (.inr (.inl ⟨h2, rfl⟩)))
  · exact .inr (.inr (.inr (.inr (.inl ⟨h1, Link.receiveCount_end h⟩))))
  · cases h; exact .inr (.inr (.inr (.inr (.inr rfl))))

theorem Link.sendStep_cases (h : l.sendStep p = .ok l') :
    (l.bitStep = 5 ∧ l' = l.sendCapture) ∨ (l.bitStep = 4 ∧ l' = l.sendAck) ∨
    (l.bitStep = 3 ∧ l' = l.sendAwaitRelease) ∨ (l.bitStep = 2 ∧ l' = l.sendRelease) ∨
    (l.bitStep = 1 ∧ ByteEnd l l') ∨ l' = l := by
  unfold Link.sendStep at h
  split_ifs at h with h5 h4 h3 h2 h1
  · cases h; exact .inl ⟨h5, rfl⟩
  · cases h; exact .inr (.inl ⟨h4, rfl⟩)
  · cases h; exact .inr (.inr (.inl ⟨h3, rfl⟩))
  · cases h; exact .inr (.inr (.inr (.inl ⟨h2, rfl⟩)))
  · exact .inr (.inr (.inr (.inr (.inl ⟨h1, Link.sendCount_end h⟩))))
  · cases h; exact .inr (.inr (.inr (.inr (.inr rfl))))

/-- What both Prepare transitions and the steps of both phases keep, a tick keeps. -/
theorem Link.tick_keeps {Q : Link → Prop}
    (hprepareReceive : ∀ l b rest, l.phase = .prepareReceive → Q l → Q (l.prepareReceive b rest))
    (hprepareSend : ∀ l, l.phase = .prepareSend → Q l → Q l.prepareSend)
    (hreceive : ∀ l l', l.phase = .receive → l.receiveStep p = .ok l' → Q l → Q l')
    (hsend : ∀ l l', l.phase = .send → l.sendStep p = .ok l' → Q l → Q l')
    (h : l.tick p = .ok l') (hl : Q l) : Q l' := by
  unfold Link.tick at h
  split at h
  · cases h; exact hl
  · rename_i hp
    split at h
    · cases h
    · split at h
      · exact hreceive _ _ rfl h (hprepareReceive l _ _ hp hl)
      · cases h; exact hprepareReceive l _ _ hp hl
  · rename_i hp
    split at h
    · split at h
      · exact hsend _ _ rfl h (hprepareSend l hp hl)
      · cases h; exact hprepareSend l hp hl
    · cases h; exact hl
  · rename_i hp
    exact hreceive l l' hp h hl
  · rename_i hp
    exact hsend l l' hp h hl

/-! Three things every tick keeps. -/

/-- The link counters lie within their ranges (10_state.md R42, R43). -/
def CountersInRange (l : Link) : Prop := l.bits ≤ 8 ∧ l.bitStep ≤ 5

theorem ByteEnd.countersInRange (h : ByteEnd l l') (hl : CountersInRange l) : CountersInRange l' := by
  obtain ⟨hb, hs⟩ := hl
  have hb' : l.bits - 1 ≤ 8 := by omega
  cases h with
  | nextBit => exact ⟨hb', Nat.le_refl 5⟩
  | nextReceive | nextSend => exact ⟨hb', hs⟩
  | done l' q n h => exact ⟨h.bits ▸ hb', h.bitStep ▸ hs⟩

theorem Link.tick_countersInRange (h : l.tick p = .ok l') (hl : CountersInRange l) : CountersInRange l' := by
  refine Link.tick_keeps (fun l b rest _ _ => ⟨Nat.le_refl 8, Nat.le_refl 5⟩) (fun l _ _ => ⟨Nat.le_refl 8, Nat.le_refl 5⟩)
    (fun l l' _ h hl => ?receive) (fun l l' _ h hl => ?send) h hl
  case receive =>
    have moved {k : Link} (hb : k.bits = l.bits) (hs : k.bitStep ≤ 5) : CountersInRange k := ⟨hb ▸ hl.1, hs⟩
    obtain ⟨-, rfl⟩ | ⟨-, rfl⟩ | ⟨-, rfl⟩ | ⟨-, rfl⟩ | ⟨-, he⟩ | rfl := Link.receiveStep_cases h
    · exact moved rfl (Nat.le_of_ble_eq_true rfl)
    · unfold Link.receiveAwaitAck
      split
      · exact moved rfl (Nat.le_of_ble_eq_true rfl)
      · exact hl
    · exact moved rfl (Nat.le_of_ble_eq_true rfl)
    · unfold Link.receiveAwaitIdle
      split
      · exact moved rfl (Nat.le_of_ble_eq_true rfl)
      · exact hl
    · exact he.countersInRange hl
    · exact hl
  case send =>
    have moved {k : Link} (hb : k.bits = l.bits) (hs : k.bitStep ≤ 5) : CountersInRange k := ⟨hb ▸ hl.1, hs⟩
    obtain ⟨-, rfl⟩ | ⟨-, rfl⟩ | ⟨-, rfl⟩ | ⟨-, rfl⟩ | ⟨-, he⟩ | rfl := Link.sendStep_cases h
    · unfold Link.sendCapture
      split
      · exact moved rfl (Nat.le_of_ble_eq_true rfl)
      · exact hl
    · exact moved rfl (Nat.le_of_ble_eq_true rfl)
    · unfold Link.sendAwaitRelease
      split
      · exact moved rfl (Nat.le_of_ble_eq_true rfl)
      · exact hl
    · exact moved rfl (Nat.le_of_ble_eq_true rfl)
    · exact he.countersInRange hl
    · exact hl

/-- Outside a byte the lines are released exactly if `link_in` is 0. -/
theorem linesReleased_of_lineIn (h : l.lineIn = 0) : LinesReleased l := by
  unfold LinesReleased
  split
  · exact fun _ => h
  · exact fun _ => h
  · exact h
  · exact h
  · exact h

theorem ByteEnd.lineIn_eq (h : ByteEnd l l') : l'.lineIn = l.lineIn := by
  cases h with
  | nextBit | nextReceive | nextSend => rfl
  | done l' q n h => exact h.lineIn

theorem Link.tick_linesReleased (h : l.tick p = .ok l') (hl : LinesReleased l) : LinesReleased l' := by
  refine Link.tick_keeps (fun l b rest hp hl => ?prepareReceive) (fun l hp hl => ?prepareSend)
    (fun l l' hp h hl => ?receive) (fun l l' hp h hl => ?send) h hl
  case prepareReceive =>
    rw [LinesReleased, hp] at hl
    exact linesReleased_of_lineIn hl
  case prepareSend =>
    rw [LinesReleased, hp] at hl
    exact linesReleased_of_lineIn hl
  case receive =>
    have hr : l.bitStep = 5 ∨ l.bitStep = 2 ∨ l.bitStep = 1 → l.lineIn = 0 := by
      rw [LinesReleased, hp] at hl
      exact hl
    obtain ⟨-, rfl⟩ | ⟨-, rfl⟩ | ⟨-, rfl⟩ | ⟨h2, rfl⟩ | ⟨h1, he⟩ | rfl := Link.receiveStep_cases h
    · simp [LinesReleased, Link.receiveDrive, hp]
    · unfold Link.receiveAwaitAck
      split
      · simp [LinesReleased, hp]
      · exact hl
    · exact linesReleased_of_lineIn rfl
    · unfold Link.receiveAwaitIdle
      split
      · exact linesReleased_of_lineIn (hr (.inr (.inl h2)))
      · exact hl
    · exact linesReleased_of_lineIn (he.lineIn_eq.trans (hr (.inr (.inr h1))))
    · exact hl
  case send =>
    have hr : l.bitStep = 5 ∨ l.bitStep = 4 ∨ l.bitStep = 1 → l.lineIn = 0 := by
      rw [LinesReleased, hp] at hl
      exact hl
    obtain ⟨h5, rfl⟩ | ⟨-, rfl⟩ | ⟨-, rfl⟩ | ⟨-, rfl⟩ | ⟨h1, he⟩ | rfl := Link.sendStep_cases h
    · unfold Link.sendCapture
      split
      · exact linesReleased_of_lineIn (hr (.inl h5))
      · exact hl
    · simp [LinesReleased, Link.sendAck, hp]
    · unfold Link.sendAwaitRelease
      split
      · simp [LinesReleased, hp]
      · exact hl
    · exact linesReleased_of_lineIn rfl
    · exact linesReleased_of_lineIn (he.lineIn_eq.trans (hr (.inr (.inr h1))))
    · exact hl

/-- The flag's match depends on the continuation and the flag alone, inside a session. -/
theorem activeMatches_of_same (h : ActiveMatches l) (hp : l.phase ≠ .inactive) (hc : l'.cont = l.cont)
    (ha : l'.active = l.active) : ActiveMatches l' := by
  intro _
  rw [hc, ha]
  exact h hp

theorem ByteEnd.activeMatches (h : ByteEnd l l') (hp : l.phase ≠ .inactive) (hl : ActiveMatches l) : ActiveMatches l' := by
  cases h with
  | nextBit | nextReceive | nextSend => exact activeMatches_of_same hl hp rfl rfl
  | done l' q n h => exact h.active

theorem Link.tick_activeMatches (h : l.tick p = .ok l') (hl : ActiveMatches l) : ActiveMatches l' := by
  refine Link.tick_keeps (fun l b rest hp hl => activeMatches_of_same hl (by simp [hp]) rfl rfl)
    (fun l hp hl => activeMatches_of_same hl (by simp [hp]) rfl rfl) (fun l l' hp h hl => ?receive)
    (fun l l' hp h hl => ?send) h hl
  case receive =>
    have hp : l.phase ≠ .inactive := by simp [hp]
    obtain ⟨-, rfl⟩ | ⟨-, rfl⟩ | ⟨-, rfl⟩ | ⟨-, rfl⟩ | ⟨-, he⟩ | rfl := Link.receiveStep_cases h
    · exact activeMatches_of_same hl hp rfl rfl
    · unfold Link.receiveAwaitAck
      split
      · exact activeMatches_of_same hl hp rfl rfl
      · exact hl
    · exact activeMatches_of_same hl hp rfl rfl
    · unfold Link.receiveAwaitIdle
      split
      · exact activeMatches_of_same hl hp rfl rfl
      · exact hl
    · exact he.activeMatches hp hl
    · exact hl
  case send =>
    have hp : l.phase ≠ .inactive := by simp [hp]
    obtain ⟨-, rfl⟩ | ⟨-, rfl⟩ | ⟨-, rfl⟩ | ⟨-, rfl⟩ | ⟨-, he⟩ | rfl := Link.sendStep_cases h
    · unfold Link.sendCapture
      split
      · exact activeMatches_of_same hl hp rfl rfl
      · exact hl
    · exact activeMatches_of_same hl hp rfl rfl
    · unfold Link.sendAwaitRelease
      split
      · exact activeMatches_of_same hl hp rfl rfl
      · exact hl
    · exact activeMatches_of_same hl hp rfl rfl
    · exact he.activeMatches hp hl
    · exact hl

/-! From the link to the machine: what the five ways to change a link keep, every operation but `LOAD_TEXT` keeps. -/

/-- What a hard reset, a load of `link_out`, a tick and the start of a session keep. -/
structure LinkInvariant (Q : Link → Prop) : Prop where
  reset : ∀ n, Q { Link.reset with testCount := n }
  lineOut : ∀ l v, Q l → Q { l with lineOut := v }
  tick : ∀ p l l', l.tick p = .ok l' → Q l → Q l'
  start : ∀ p l f, l.phase = .inactive → Q l → Q (({ l with file := f } : Link).sendNextFile p)

section LinkInvariant

variable {Q : Link → Prop} (hQ : LinkInvariant Q)

include hQ

theorem LinkAccess.keeps (h : LinkAccess p l l') (hl : Q l) : Q l' := by
  cases h with
  | loaded v h => exact h ▸ hQ.lineOut l v hl
  | ticked v h => exact hQ.tick p _ _ h (hQ.lineOut l v hl)

theorem BusEffect.link_keeps {u : Transaction} (h : BusEffect s u t) (hs : Q s.link) : Q t.link := by
  cases h with
  | iord0 l hl => exact hQ.tick _ _ _ hl hs
  | iowr0 v m l hl => exact hl.keeps hQ hs
  | memrd | memwr | iord1 | iord17 | iordElse | iowr1 | iowr2 | iowr3 | iowr16 | iowr17 | iowrElse =>
    simpa [State.clearLagFlag, State.moveCursor] using hs

theorem frame_link_keeps (h : execFrameAdvance s = .next t) (hs : Q s.link) : Q t.link :=
  frame_keeps (P := fun a b => Q a.link → Q b.link) (fun _ h => h) (fun _ _ _ hab hbc h => hbc (hab h)) (fun _ _ h => h)
    (fun _ _ h => h) (fun _ h => h) (fun _ _ _ hu => (serve_effect hu).link_keeps hQ) (fun _ h => h) (fun _ h => h) h hs

theorem exec_link_keeps {i : Instr} (hload : isLoad i = false) (h : exec i s = .next t) (hs : Q s.link) : Q t.link := by
  cases exec_effect h with
  | bus i u hu => exact hu.link_keeps hQ hs
  | construct args | hardReset => exact hQ.reset _
  | frame h => exact frame_link_keeps hQ h hs
  | accepted bytes f hphase => exact hQ.start s.cfg s.link (some f) hphase hs
  | loaded => cases hload
  | irqAck | rejected | report | nothing | domainWrite | setButtons | setCounter | dispose => exact hs

theorem step_link_keeps (hload : ∀ slot rest i, s.pending = slot :: rest → decode slot = .ok i → isLoad i = false)
    (h : step s = .next t) (hs : Q s.link) : Q t.link := by
  obtain ⟨-, h1⟩ | ⟨e, h1⟩ | h1 | ⟨slot, rest, i, hp, hd, -, -, -, h1⟩ := step_cases s <;> rw [h1] at h
  · cases h; exact hs
  · cases h
  · cases h
  · exact exec_link_keeps hQ (s := s.withPending rest) (hload slot rest i hp hd) h hs

end LinkInvariant

theorem linkInvariant_countersInRange : LinkInvariant CountersInRange where
  reset _ := ⟨Nat.zero_le 8, Nat.zero_le 5⟩
  lineOut _ _ h := h
  tick _ _ _ h hl := Link.tick_countersInRange h hl
  start p l f hi hl :=
    have hc := Link.sendNextFile_continued (p := p) (l := { l with file := f }) hi
    ⟨hc.bits.le.trans hl.1, hc.bitStep.le.trans hl.2⟩

theorem linkInvariant_session : LinkInvariant Session where
  reset _ := .of_inactive rfl
  lineOut _ v h := h.of_lineOut v
  tick p _ _ h hl := by
    obtain ⟨k, hk, hs⟩ := Link.tick_session (p := p) hl
    cases hk.symm.trans h
    exact hs
  start _ _ _ hi _ := Link.sendNextFile_session (.of_inactive hi)

theorem linkInvariant_linesReleased : LinkInvariant LinesReleased where
  reset _ := rfl
  lineOut _ _ h := h
  tick _ _ _ h hl := Link.tick_linesReleased h hl
  start p l f hi hl := by
    rw [LinesReleased, hi] at hl
    exact linesReleased_of_lineIn ((Link.sendNextFile_continued (p := p) (l := { l with file := f }) hi).lineIn.trans hl)

theorem linkInvariant_activeMatches : LinkInvariant ActiveMatches where
  reset _ := fun h => absurd rfl h
  lineOut _ _ h := h
  tick _ _ _ h hl := Link.tick_activeMatches h hl
  start p l f hi _ := (Link.sendNextFile_continued (p := p) (l := { l with file := f }) hi).active

/-! The parameters stay accepted. -/

theorem exec_paramsOk {i : Instr} (h : exec i s = .next t) (hs : paramsOk s.cfg = true) : paramsOk t.cfg = true := by
  cases exec_effect h with
  | bus i u hu => exact hu.sameInputs.cfg ▸ hs
  | construct args hp => exact hp
  | frame h => exact (frame_sameInputs h).cfg ▸ hs
  | irqAck | hardReset | rejected | accepted | loaded | report | nothing | domainWrite | setButtons | setCounter
  | dispose => exact hs

theorem step_paramsOk (h : step s = .next t) (hs : paramsOk s.cfg = true) : paramsOk t.cfg = true :=
  step_keeps (P := fun a => paramsOk a.cfg = true) (fun _ _ ha => ha) (fun _ _ _ ha hi => exec_paramsOk hi ha) hs h

end Sys2Proof.Machine

namespace Sys2Proof.Safety

open Sys2Proof.Machine

/-- Settles O12: the session is kept by each way a link changes but a load, and the parameters change by an accepted
`CONSTRUCT` alone. -/
theorem everyStepKeepsTheSession : Obligations.EveryStepKeepsTheSession :=
  fun _ _ hs hload h => ⟨step_paramsOk h hs.params, step_link_keeps linkInvariant_session hload h hs.session⟩

/-- Settles O14: each of the two is kept by each way a link changes but a load. -/
theorem everyStepKeepsTheLinesAndTheFlag : Obligations.EveryStepKeepsTheLinesAndTheFlag :=
  fun _ _ hload h => ⟨step_link_keeps linkInvariant_linesReleased hload h, step_link_keeps linkInvariant_activeMatches hload h⟩

end Sys2Proof.Safety
end

section
/-! PROOFS. The ranges every step keeps, `LOAD_TEXT` included (10_state.md R22 to R27, R42, R43, 60_exceptions.md R335), and that
operations complete (60_exceptions.md R320, 45_link_fsm.md R234). -/

namespace Sys2Proof.Machine

open Sys2Proof.Safety

variable {s t : State} {p : Params}

/-! What the ranges speak of. -/

/-- The elements with a range. -/
def ranged (s : State) : Params × (Memory × Memory × Memory) × (Nat × Nat × Nat) × (Nat × Nat) × Bool :=
  (s.cfg, (s.rom, s.ram, s.vram), (s.cpu.pc, s.startPc, s.map.bankLow), (s.link.bits, s.link.bitStep), s.nmiLine)

theorem inRange_of_same (h : InRange s) (ht : ranged t = ranged s) : InRange t := by
  simp only [ranged, Prod.mk.injEq] at ht
  obtain ⟨hcfg, ⟨hrom, hram, hvram⟩, ⟨hpc, hstart, hbank⟩, ⟨hbits, hstep⟩, hnmi⟩ := ht
  constructor
  · exact hrom ▸ h.rom
  · exact hcfg ▸ hrom ▸ h.romBelow
  · exact hram ▸ h.ram
  · exact hcfg ▸ hram ▸ h.ramBelow
  · exact hvram ▸ h.vram
  · exact hvram ▸ h.vramBelow
  · exact hcfg ▸ hpc ▸ h.pc
  · exact hcfg ▸ hstart ▸ h.startPc
  · exact hcfg ▸ hbank ▸ h.bankLow
  · exact hbits ▸ h.bits
  · exact hstep ▸ h.bitStep
  · exact hnmi ▸ h.nmi

theorem inRange_withLink {l : Link} (h : InRange s) (hl : CountersInRange l) : InRange (s.withLink l) :=
  { h with bits := hl.1, bitStep := hl.2 }

theorem inRange_withRam {m : Memory} (h : InRange s) (hm : Memory.wf ramFill m = true)
    (hb : Memory.below s.cfg.ramSize m = true) : InRange (s.withRam m) :=
  { h with ram := hm, ramBelow := hb }

theorem inRange_withVram {m : Memory} (h : InRange s) (hm : Memory.wf vramFill m = true)
    (hb : Memory.below vramSize m = true) : InRange (s.withVram m) :=
  { h with vram := hm, vramBelow := hb }

/-! The transactions and the frame. -/

/-- VRAM after a display data write is canonical and within its size. -/
theorem dispDataWrite_wf {v : Byte} {m : Memory} (h : InRange s)
    (hw : dispDataWrite v s = .next (s.withVram m).moveCursor) :
    Memory.wf vramFill m = true ∧ Memory.below vramSize m = true := by
  have vramOf {u : State} (hu : .next u.moveCursor = (.next (s.withVram m).moveCursor : Result)) : u.vram = m := by
    injection hu with hu
    exact congrArg State.vram hu
  unfold dispDataWrite at hw
  split at hw
  · unfold writeMode1 at hw
    split at hw
    · unfold vramOobWrite at hw
      split at hw
      · cases hw
      · exact vramOf hw ▸ ⟨h.vram, h.vramBelow⟩
    · rename_i hoff
      exact vramOf hw ▸ ⟨Memory.wf_write h.vram _ v, Memory.below_write h.vramBelow (by omega) v⟩
  · exact vramOf hw ▸ putCell0_wf v h.vram h.vramBelow

theorem LinkAccess.countersInRange {l l' : Link} (h : LinkAccess p l l') (hl : CountersInRange l) : CountersInRange l' :=
  h.keeps linkInvariant_countersInRange hl

theorem BusEffect.inRange {u : Transaction} (h : BusEffect s u t) (hs : InRange s) : InRange t := by
  cases h with
  | memwr a v log =>
    obtain ⟨hwf, hbelow⟩ := ramAfter_wf (s := s) a v hs.ram hs.ramBelow
    exact inRange_of_same (inRange_withRam hs hwf hbelow) rfl
  | iord0 l hl =>
    exact inRange_of_same (inRange_withLink hs (Link.tick_countersInRange hl ⟨hs.bits, hs.bitStep⟩)) rfl
  | iowr0 v m l hl =>
    exact inRange_of_same (inRange_withLink hs (hl.countersInRange ⟨hs.bits, hs.bitStep⟩)) rfl
  | iowr2 v => exact { hs with bankLow := port2BankLow_lt s.cfg v }
  | iowr17 v m hw =>
    obtain ⟨hwf, hbelow⟩ := dispDataWrite_wf hs hw
    exact inRange_of_same (inRange_withVram hs hwf hbelow) rfl
  | memrd | iord1 | iord17 | iordElse | iowr1 | iowr3 | iowr16 | iowrElse =>
    exact inRange_of_same hs (by simp [ranged, State.clearLagFlag])

theorem inRange_withCpu (h : InRange s) (c : Cpu) : InRange (s.withCpu c) :=
  { h with pc := Nat.mod_lt _ (Nat.two_pow_pos _) }

theorem frame_inRange (h : execFrameAdvance s = .next t) (hs : InRange s) : InRange t :=
  frame_keeps (P := fun a b => InRange a → InRange b) (fun _ h => h) (fun _ _ _ hab hbc h => hbc (hab h))
    (fun _ c h => inRange_withCpu h c) (fun _ _ h => inRange_of_same h rfl) (fun _ h => inRange_of_same h rfl)
    (fun _ _ _ hu => (serve_effect hu).inRange) (fun _ h => inRange_of_same h rfl) (fun _ h => inRange_of_same h rfl) h hs

/-! Construction and reset. -/

theorem inRange_hardReset (hrom : Memory.wf romFill s.rom = true) (hromBelow : Memory.below s.cfg.romSize s.rom = true)
    (hvram : Memory.wf vramFill s.vram = true) (hvramBelow : Memory.below vramSize s.vram = true)
    (hstart : s.startPc < 2 ^ s.cfg.addrBits) : InRange s.hardReset where
  rom := hrom
  romBelow := hromBelow
  ram := rfl
  ramBelow := rfl
  vram := hvram
  vramBelow := hvramBelow
  pc := hstart
  startPc := hstart
  bankLow := Nat.two_pow_pos _
  bits := Nat.zero_le 8
  bitStep := Nat.zero_le 5
  nmi := rfl

theorem inRange_constructed {args : ConstructArgs} (hsize : args.rom.size = args.params.romSize) :
    InRange (s.constructed args) := by
  refine inRange_hardReset (Memory.wf_ofCells _ _) ?_ rfl rfl (Nat.mod_lt _ (Nat.two_pow_pos _))
  show Memory.below args.params.romSize (imageMemory args.rom) = true
  rw [← hsize]
  exact Memory.below_ofCells _ _

/-! A load: every value it has gathered fits its field. -/

/-- Every value given so far fits its field, and the CPU's program counter its width. -/
structure Gathered (p : Params) (a : LoadState) : Prop where
  vals : ∀ (i : Nat) (v : SnapVal), a.vals[i]? = some (some v) → ∃ type, (snapTypes p)[i]? = some type ∧ v.fits type = true
  pc : a.cpu.pc < 2 ^ p.addrBits

theorem loadField_gathered {a b : LoadState} {l : Line} (h : loadField p a l = some b) (ha : Gathered p a) :
    Gathered p b := by
  unfold loadField at h
  split at h
  · cases h; exact ⟨ha.vals, ha.pc⟩
  · split at h
    · cases h; exact ⟨ha.vals, ha.pc⟩
    · rename_i j hj type htype
      obtain ⟨v, hv, rfl⟩ := Option.map_eq_some_iff.1 h
      refine ⟨fun i w hw => ?_, ha.pc⟩
      rw [List.getElem?_set] at hw
      split at hw
      · rename_i hij
        split at hw
        · cases hw; exact ⟨type, hij ▸ htype, parseVal_fits hv⟩
        · cases hw
      · exact ha.vals i w hw

theorem loadLines_gathered {e : Engine} {mode : LoadMode} {a b : LoadState} {lines : Text}
    (h : loadLines p e mode a lines = some b) (ha : Gathered p a) : Gathered p b := by
  induction lines generalizing mode a with
  | nil => cases mode <;> cases h
  | cons l rest ih =>
    cases mode with
    | before =>
      rw [loadLines] at h
      split at h
      · exact ih h ha
      · exact ih h ha
    | fields =>
      rw [loadLines] at h
      split at h
      · cases h; exact ha
      split at h
      · exact ih h ha
      split at h
      · rename_i a' hl
        exact ih h (loadField_gathered hl ha)
      · cases h
    | inCpu block =>
      rw [loadLines] at h
      split at h
      · split at h
        · rename_i c hc
          exact ih h ⟨ha.vals, (loadCpu_eq_some.1 hc).2⟩
        · cases h
      · exact ih h ha

theorem loadStart_gathered (hs : InRange s) : Gathered s.cfg s.loadStart := by
  refine ⟨fun i v hv => ?_, hs.pc⟩
  rw [State.loadStart, List.getElem?_replicate] at hv
  split at hv <;> cases hv

section Restored

variable {a : LoadState} (ha : Gathered p a)

include ha

theorem Gathered.numOr_lt {i bound keep : Nat} (htype : (snapTypes p)[i]? = some (.below bound)) (hkeep : keep < bound) :
    numOr a.vals i keep < bound := by
  unfold numOr
  split
  · rename_i n hn
    obtain ⟨type, ht, hfits⟩ := ha.vals i _ hn
    cases htype.symm.trans ht
    simpa [SnapVal.fits] using hfits
  · exact hkeep

theorem Gathered.flagOr_zero {i : Nat} (htype : (snapTypes p)[i]? = some .zeroFlag) : flagOr a.vals i false = false := by
  unfold flagOr
  split
  · rename_i b hb
    obtain ⟨type, ht, hfits⟩ := ha.vals i _ hb
    cases htype.symm.trans ht
    simpa [SnapVal.fits] using hfits
  · rfl

theorem Gathered.memoryOr_wf {i len : Nat} {d : Byte} {keep : Memory} (htype : (snapTypes p)[i]? = some (.bufOf len))
    (hwf : Memory.wf d keep = true) (hbelow : Memory.below len keep = true) :
    Memory.wf d (memoryOr a.vals i d keep) = true ∧ Memory.below len (memoryOr a.vals i d keep) = true := by
  unfold memoryOr
  split
  · rename_i bs hbs
    obtain ⟨type, ht, hfits⟩ := ha.vals i _ hbs
    cases htype.symm.trans ht
    have hlen : bs.length = len := by simpa [SnapVal.fits] using hfits
    have hb := Memory.below_ofBytesFrom (d := d) 0 bs
    rw [Nat.zero_add, hlen] at hb
    exact ⟨Memory.wf_ofBytesFrom 0 bs, hb⟩
  · exact ⟨hwf, hbelow⟩

end Restored

theorem inRange_restore {a : LoadState} (ha : Gathered s.cfg a) (hs : InRange s) : InRange (s.restore a.vals a.cpu) := by
  obtain ⟨hram, hramBelow⟩ := ha.memoryOr_wf (i := 2) rfl hs.ram hs.ramBelow
  obtain ⟨hvram, hvramBelow⟩ := ha.memoryOr_wf (i := 3) rfl hs.vram hs.vramBelow
  constructor
  · exact hs.rom
  · exact hs.romBelow
  · exact hram
  · exact hramBelow
  · exact hvram
  · exact hvramBelow
  · exact ha.pc
  · exact hs.startPc
  · exact ha.numOr_lt (i := 4) rfl hs.bankLow
  · exact Nat.le_of_lt_succ (ha.numOr_lt (i := 19) rfl (Nat.lt_succ_of_le hs.bits))
  · exact Nat.le_of_lt_succ (ha.numOr_lt (i := 20) rfl (Nat.lt_succ_of_le hs.bitStep))
  · show flagOr a.vals 1 s.nmiLine = false
    rw [hs.nmi]
    exact ha.flagOr_zero rfl

theorem exec_inRange {i : Instr} (hp : paramsOk s.cfg = true) (hs : InRange s) (h : exec i s = .next t) : InRange t := by
  cases exec_effect h with
  | bus i u hu => exact hu.inRange hs
  | construct args _ hsize => exact inRange_constructed hsize
  | hardReset => exact inRange_hardReset hs.rom hs.romBelow hs.vram hs.vramBelow hs.startPc
  | frame h => exact frame_inRange h hs
  | accepted bytes f hphase =>
    have hl : CountersInRange (({ s.link with file := some f } : Link).sendNextFile s.cfg) :=
      linkInvariant_countersInRange.start s.cfg s.link (some f) hphase ⟨hs.bits, hs.bitStep⟩
    exact inRange_of_same (inRange_withLink hs hl) rfl
  | loaded snap a ha => exact inRange_of_same (inRange_restore (loadLines_gathered ha (loadStart_gathered hs)) hs) rfl
  | domainWrite a v =>
    have hoff : domainOffset s.cfg a < s.cfg.ramSize := by
      have hsize : 0 < s.cfg.ramSize := by
        simp only [paramsOk, mapOk, Bool.and_eq_true, decide_eq_true_eq] at hp
        omega
      have hle : domainOffset s.cfg a ≤ s.cfg.ramSize - 1 := Nat.and_le_right
      omega
    exact inRange_withRam hs (Memory.wf_write hs.ram _ v) (Memory.below_write hs.ramBelow hoff v)
  | irqAck | rejected | report | nothing | setButtons | setCounter | dispose => exact inRange_of_same hs rfl

/-! Completion: which operations can meet which fault. -/

theorem completes_next (s : State) : completes (.next s) := ⟨s, rfl⟩

/-- A transaction in a session the rules make completes, or is a display data access that meets the fault of VRAM. -/
theorem dispatch_completes (u : Transaction) (hs : Session s.link) :
    completes (dispatch u s) ∨ (s.cfg.vramOob = .stop ∧ onDataPort u = true ∧ dispatch u s = .fault .vramRange) := by
  cases h0 : onPort0 u with
  | true =>
    obtain ⟨t, ht, -⟩ := dispatch_port0 u h0 s hs
    exact .inl ⟨t, ht⟩
  | false =>
    cases u with
    | memrd a => exact .inl ⟨_, readMemory_eq a⟩
    | memwr a v => exact .inl ⟨_, writeMemory_eq a v⟩
    | iord p =>
      obtain ⟨t, ht, -⟩ | ⟨h17, ho, h⟩ := portRead_quiet p (by simpa [onPort0] using h0) s
      · exact .inl ⟨t, ht⟩
      · exact .inr ⟨ho, by simp [onDataPort, h17], h⟩
    | iowr p v =>
      obtain ⟨t, ht, -⟩ | ⟨h17, ho, h⟩ := portWrite_quiet p (by simpa [onPort0] using h0) v s
      · exact .inl ⟨t, ht⟩
      · exact .inr ⟨ho, by simp [onDataPort, h17], h⟩

/-- No host operation but a frame and the three conditional ones can do anything but complete. -/
theorem hostOp_completes {i : Instr} (hhost : byEngine i = false) (hcond : isConditional i = false)
    (hframe : i ≠ .frameAdvance) (s : State) : completes (exec i s) := by
  cases i
  case frameAdvance => exact absurd rfl hframe
  case construct | sendFile | loadText => cases hcond
  case getCounter which => cases which <;> exact completes_next _
  case setCounter which n => cases which <;> exact completes_next _
  case hardReset | saveText | saveBinary | loadBinary | domainRead | domainWrite | getFramebuffer | setButtons | dispose =>
    exact completes_next _
  all_goals cases hhost

/-- The bursts of a frame from a session the rules make meet no fault of the link. -/
theorem bursts_fault {n : Nat} {e : Fault} (hs : Sound s) (h : bursts n s = .fault e) : e ≠ .linkQueueEmpty := by
  induction n generalizing s with
  | zero => cases h
  | succ n ih =>
    obtain ⟨u, hu, hsu, -, -⟩ | ⟨-, hu⟩ | ⟨-, hu⟩ := burst_sound s hs <;> rw [bursts, hu] at h
    · exact ih hsu h
    · cases h; exact nofun
    · cases h; exact nofun

theorem execSendFile_ne_fault {bytes : List Byte} {e : Fault} : execSendFile bytes s ≠ .fault e := by
  unfold execSendFile raiseFormatError
  repeat' split
  all_goals exact nofun

theorem execLoadText_ne_fault {snap : Snapshot} {e : Fault} : execLoadText snap s ≠ .fault e := by
  unfold execLoadText
  repeat' split
  all_goals exact nofun

theorem execConstruct_ne_fault {args : ConstructArgs} {e : Fault} : execConstruct args s ≠ .fault e := by
  unfold execConstruct
  split
  all_goals exact nofun

/-- From a session the rules make no operation reads an empty queue. -/
theorem exec_ne_queueFault {i : Instr} (hs : Sound s) : exec i s ≠ .fault .linkQueueEmpty := by
  intro h
  have not_completes (hc : completes (exec i s)) : False := by
    obtain ⟨t, ht⟩ := hc
    cases ht.symm.trans h
  by_cases hack : i = .irqAck
  · subst hack; exact not_completes ⟨_, rfl⟩
  by_cases hbus : byEngine i = true
  · obtain ⟨u, hu, -⟩ := exec_as_dispatch hbus hack
    obtain hc | ⟨-, -, hf⟩ := dispatch_completes u hs.session
    · exact not_completes (hu s ▸ hc)
    · cases hf.symm.trans ((hu s).symm.trans h)
  · by_cases hframe : i = .frameAdvance
    · subst hframe
      obtain hb | ⟨u, -, hu⟩ := andThen_eq_fault.1 h
      · exact bursts_fault (s := s.openFrame) ⟨hs.params, hs.session⟩ hb rfl
      · cases hu
    · cases hcond : isConditional i with
      | false => exact not_completes (hostOp_completes (by simpa using hbus) hcond hframe s)
      | true =>
        cases i
        case construct args => exact execConstruct_ne_fault h
        case sendFile bytes => exact execSendFile_ne_fault h
        case loadText snap => exact execLoadText_ne_fault h
        all_goals cases hcond

/-- With the sentinel treatment a frame of an engine that fits the machine completes. -/
theorem frame_completes (hs : Sound s) (ho : s.cfg.vramOob = .sentinel) (hfits : EngineFits s.engine s.cfg) :
    completes (execFrameAdvance s) := by
  obtain ⟨u, hu, -⟩ | ⟨hstop, -⟩ :=
    bursts_sound s.cfg.burstsPerFrame s.openFrame ⟨hs.params, hs.session⟩ hfits
  · exact ⟨u.closeFrame, andThen_eq_next.2 ⟨u, hu, rfl⟩⟩
  · cases ho.symm.trans hstop

/-- An operation without a condition completes, but for the fault of VRAM at a display data access, and but for a frame. -/
theorem exec_completes {i : Instr} (hs : Sound s) (hcond : isConditional i = false) (hframe : i ≠ .frameAdvance)
    (hvram : mayReachVram i = false ∨ s.cfg.vramOob = .sentinel) : completes (exec i s) := by
  by_cases hack : i = .irqAck
  · subst hack; exact completes_next _
  by_cases hbus : byEngine i = true
  · obtain ⟨u, hu, hdata⟩ := exec_as_dispatch hbus hack
    obtain hc | ⟨hstop, hport, -⟩ := dispatch_completes u hs.session
    · exact hu s ▸ hc
    · obtain hv | ho := hvram
      · cases hv.symm.trans (hdata hport)
      · cases ho.symm.trans hstop
  · exact hostOp_completes (by simpa using hbus) hcond hframe s

end Sys2Proof.Machine

namespace Sys2Proof.Safety

open Sys2Proof.Machine

/-- Settles O11: each effect of an operation keeps each range; a load gathers only values that fit their fields. -/
theorem everyStepKeepsRanges : Obligations.EveryStepKeepsRanges :=
  fun _ _ hp hs h => step_keeps (P := fun a => paramsOk a.cfg = true ∧ InRange a)
    (fun _ _ ha => ⟨ha.1, inRange_of_same ha.2 rfl⟩)
    (fun _ _ _ ha hi => ⟨exec_paramsOk hi ha.1, exec_inRange ha.1 ha.2 hi⟩) ⟨hp, hs⟩ h

/-- Settles O13: a transaction from such a session meets at most the fault of VRAM, so a frame meets at most that or an address
that does not exist, and no other operation meets a fault. -/
theorem noStepReadsAnEmptyQueue : Obligations.NoStepReadsAnEmptyQueue := by
  intro s hs h
  obtain ⟨-, h1⟩ | ⟨e, h1⟩ | h1 | ⟨slot, rest, i, -, -, -, -, -, h1⟩ := step_cases s <;> rw [h1] at h
  · cases h
  · cases h
  · cases h
  · exact exec_ne_queueFault (s := s.withPending rest) ⟨hs.params, hs.session⟩ h

/-- Settles O15: a transaction stops only at a display data access with the fault treatment, and a frame of fitting
transactions only where one of them stops. -/
theorem operationsComplete : Obligations.OperationsComplete := by
  refine ⟨fun i s hs hcond hvram => exec_completes hs hcond ?_ (.inl hvram), fun i s hs ho hcond hfits => ?_⟩
  · rintro rfl; cases hvram
  · by_cases hframe : i = .frameAdvance
    · subst hframe; exact frame_completes hs ho (hfits rfl)
    · exact exec_completes hs hcond hframe (.inr ho)

/-- Settles O9: the memories list nothing, every register is zero, no session is there, and the default parameters pass. -/
theorem resetMeetsTheInvariants : Obligations.ResetMeetsTheInvariants := by
  refine ⟨⟨rfl, rfl, rfl, rfl, rfl, rfl, ?_, ?_, ?_, ?_, ?_, rfl⟩, ⟨?_, .of_inactive rfl⟩, rfl, fun h => absurd rfl h⟩
  all_goals decide

/-- Settles O10: the reset state's fields as they are written, and an empty memory reads its fill. -/
theorem resetValues : Obligations.ResetValues :=
  ⟨fun _ => rfl, fun _ => rfl, rfl, rfl, rfl, rfl, rfl, rfl, rfl, rfl, rfl, rfl⟩

end Sys2Proof.Safety
end

section
/-! PROOFS. The memory rows under every map and under the default one (20_memory.md R70 to R88, 41_memory_dispatch.md R151,
R152), and the domain accessors (48_host_interface.md R308, R309). -/

namespace Sys2Proof.Machine

open Sys2Proof.Safety

variable {s : State} {p : Params} {addr : Nat}

/-! What an accepted map gives (00_scope.md R10). -/

theorem mapOk_iff : mapOk p = true ↔
    0 < p.lowEnd ∧ p.lowEnd < p.ramBase ∧ p.ramBase ≤ 2 ^ p.addrBits ∧ p.lowEnd = p.bankSize ∧ 0 < p.ramSize ∧
      p.ramSize &&& (p.ramSize - 1) = 0 ∧ p.ramBase + p.ramSize ≤ 2 ^ p.addrBits := by
  simp only [mapOk, Bool.and_eq_true, decide_eq_true_eq, and_assoc]

/-- A number with no bit in common with its predecessor is a power of two. -/
theorem isPowerOfTwo_iff {n : Nat} (h : 0 < n) : n &&& (n - 1) = 0 ↔ ∃ k, n = 2 ^ k := by
  constructor
  · intro hand
    refine ⟨n.log2, ?_⟩
    by_contra hne
    have hn : n ≠ 0 := by omega
    have hle : 2 ^ n.log2 ≤ n := Nat.log2_self_le hn
    have hlt : n < 2 ^ (n.log2 + 1) := Nat.lt_log2_self
    have hpred : 2 ^ n.log2 ≤ n - 1 := by omega
    have hlt' : n - 1 < 2 ^ (n.log2 + 1) := by omega
    have hbit (m : Nat) (hlo : 2 ^ n.log2 ≤ m) (hhi : m < 2 ^ (n.log2 + 1)) : m.testBit n.log2 = true := by
      rw [Nat.testBit_eq_decide_div_mod_eq, decide_eq_true_eq]
      have hdiv : m / 2 ^ n.log2 = 1 :=
        Nat.div_eq_of_lt_le (by omega) (by rw [Nat.pow_succ] at hhi; omega)
      rw [hdiv]
    have hboth := Nat.testBit_and n (n - 1) n.log2
    rw [hand, hbit n hle hlt, hbit (n - 1) hpred hlt'] at hboth
    simp at hboth
  · rintro ⟨k, rfl⟩
    rw [Nat.and_two_pow_sub_one_eq_mod, Nat.mod_self]

theorem ramSize_isPowerOfTwo (h : mapOk p = true) : ∃ k, p.ramSize = 2 ^ k := by
  obtain ⟨-, -, -, -, hpos, hand, -⟩ := mapOk_iff.1 h
  exact (isPowerOfTwo_iff hpos).1 hand

/-- The mask before indexing is a reduction modulo `RAM_SIZE`. -/
theorem mask_eq_mod (h : mapOk p = true) (a : Nat) : a &&& (p.ramSize - 1) = a % p.ramSize := by
  obtain ⟨k, hk⟩ := ramSize_isPowerOfTwo h
  rw [hk, Nat.and_two_pow_sub_one_eq_mod]

/-! The three ranges of an address. -/

theorem memByte_low (h : addr < s.cfg.lowEnd) : s.memByte addr = s.romByte addr := if_pos h

theorem memByte_window (hlo : s.cfg.lowEnd ≤ addr) (hhi : addr < s.cfg.ramBase) :
    s.memByte addr = s.romByte (s.bank * s.cfg.bankSize + (addr - s.cfg.lowEnd)) := by
  rw [State.memByte, if_neg (by omega), if_pos hhi]

theorem memByte_ram (hmap : s.cfg.lowEnd < s.cfg.ramBase) (hlo : s.cfg.ramBase ≤ addr)
    (hhi : addr < s.cfg.ramBase + s.cfg.ramSize) : s.memByte addr = s.ramByte (addr - s.cfg.ramBase) := by
  rw [State.memByte, if_neg (by omega), if_neg (by omega), if_pos (by omega)]

/-- The window lies within the ROM: the bank is below `NBANKS` and the offset below `BANK_SIZE`. -/
theorem windowIndex_lt (hbank : s.map.bankLow < 2 ^ s.cfg.bankLowBits) {off : Nat} (hoff : off < s.cfg.bankSize) :
    s.bank * s.cfg.bankSize + off < s.cfg.romSize := by
  have hb : s.bank + 1 ≤ s.cfg.nBanks := bank_lt s hbank
  calc s.bank * s.cfg.bankSize + off < s.bank * s.cfg.bankSize + s.cfg.bankSize := by omega
    _ = (s.bank + 1) * s.cfg.bankSize := (Nat.succ_mul _ _).symm
    _ ≤ s.cfg.romSize := Nat.mul_le_mul_right _ hb

theorem storeOffset_belowRam (h : addr < s.cfg.ramBase) : s.storeOffset addr = none := by
  unfold State.storeOffset
  by_cases hlow : addr < s.cfg.lowEnd
  · rw [if_pos hlow]
  · rw [if_neg hlow, if_pos h]

theorem storeOffset_ram (hmap : s.cfg.lowEnd < s.cfg.ramBase) (hlo : s.cfg.ramBase ≤ addr)
    (hhi : addr < s.cfg.ramBase + s.cfg.ramSize) : s.storeOffset addr = some (addr - s.cfg.ramBase) := by
  rw [State.storeOffset, if_neg (by omega), if_neg (by omega), if_pos (by omega)]

theorem writeMemory_of_storeOffset_some {off : Nat} (h : s.storeOffset addr = some off) (v : Byte) :
    writeMemory addr v s = .next ((s.setRamByte off v).notifyWrite addr) := by
  rw [writeMemory, h]

/-- Only the bytes of RAM depend on it: an address of another range reads the same. -/
theorem memByte_withRam_of_ne {m : Memory}
    (h : s.cfg.ramBase ≤ addr → Memory.read ramFill m (addr - s.cfg.ramBase) = s.ramByte (addr - s.cfg.ramBase)) :
    (s.withRam m).memByte addr = s.memByte addr := by
  show (if addr < s.cfg.lowEnd then s.romByte addr else if addr < s.cfg.ramBase then
    s.romByte (s.bank * s.cfg.bankSize + (addr - s.cfg.lowEnd)) else if addr - s.cfg.ramBase < s.cfg.ramSize then
    Memory.read ramFill m (addr - s.cfg.ramBase) else 0xFF) = _
  unfold State.memByte
  split_ifs with h1 h2 h3
  · rfl
  · rfl
  · exact h (by omega)
  · rfl

end Sys2Proof.Machine

namespace Sys2Proof.Safety

open Sys2Proof.Machine

/-- Settles O20: the address's range chooses the memory, and a bank within its width keeps the window within the ROM. -/
theorem memrdRowsReadTheirRegion : Obligations.MemrdRowsReadTheirRegion := by
  refine ⟨fun s addr => ⟨fun h => ?served, memByte_low, fun hlo hhi => ⟨memByte_window hlo hhi, fun hmap hbank => ?rom⟩,
    fun hmap hlo hhi => memByte_ram (lowEnd_lt_ramBase_of_mapOk hmap) hlo hhi⟩,
    fun s hdefault => ⟨fun a => ?low, fun a => ?window, fun a => ?ram, fun hbank a => ?bank⟩⟩
  case served => exact (serve_memrd h).trans (readMemory_eq addr)
  case rom => exact windowIndex_lt hbank (show addr - s.cfg.lowEnd < s.cfg.ramBase - s.cfg.lowEnd by omega)
  all_goals obtain ⟨-, hlow, hbase, hsize⟩ := hdefault
  case low =>
    have hrange : a.toNat < s.cfg.lowEnd := by rw [hlow]; exact a.isLt
    rw [← memByte_low hrange]
    exact readMemory_eq _
  case window =>
    have ha := a.isLt
    have hoff : 0x4000 + a.toNat - s.cfg.lowEnd = a.toNat := by omega
    have hbank : s.cfg.bankSize = 0x4000 := by rw [Params.bankSize, hlow, hbase]
    have hbyte := memByte_window (s := s) (addr := 0x4000 + a.toNat) (by omega) (by omega)
    rw [hoff, hbank] at hbyte
    rw [show s.map.bankLow ||| (s.map.bankHigh.toNat <<< s.cfg.bankLowBits) = s.bank from rfl, ← hbyte]
    exact readMemory_eq _
  case ram =>
    have ha := a.isLt
    have hoff : 0x8000 + a.toNat - s.cfg.ramBase = a.toNat := by omega
    have hbyte := memByte_ram (s := s) (addr := 0x8000 + a.toNat) (by omega) (by omega) (by omega)
    rw [hoff] at hbyte
    rw [← hbyte]
    exact readMemory_eq _
  case bank =>
    have hbankSize : s.cfg.bankSize = 0x4000 := by rw [Params.bankSize, hlow, hbase]
    have hindex := windowIndex_lt (off := a.toNat) hbank (by rw [hbankSize]; exact a.isLt)
    rw [hbankSize] at hindex
    exact ⟨bank_eq s hbank, hindex⟩

/-- Settles O21: of the three ranges only RAM has a store offset, and the hook is called in every case. -/
theorem memwrRowsStoreOnlyInRam : Obligations.MemwrRowsStoreOnlyInRam := by
  rintro s v ⟨-, hlow, hbase, hsize⟩
  refine ⟨fun a => ?low, fun a => ?window, fun a => ?ram⟩
  case low =>
    have ha := a.isLt
    show writeMemory a.toNat v s = _
    rw [writeMemory_of_storeOffset_none (storeOffset_belowRam (by omega)), notifyWrite_eq]
    rfl
  case window =>
    have ha := a.isLt
    show writeMemory (0x4000 + a.toNat) v s = _
    rw [writeMemory_of_storeOffset_none (storeOffset_belowRam (by omega)), notifyWrite_eq]
    rfl
  case ram =>
    have ha := a.isLt
    have hoff : 0x8000 + a.toNat - s.cfg.ramBase = a.toNat := by omega
    have hstore := storeOffset_ram (s := s) (addr := 0x8000 + a.toNat) (by omega) (by omega) (by omega)
    rw [hoff] at hstore
    show writeMemory (0x8000 + a.toNat) v s = _
    rw [writeMemory_of_storeOffset_some hstore, notifyWrite_eq]
    rfl

/-- Settles O22: the store goes to the one RAM offset of the address, and two addresses of RAM have two offsets. -/
theorem ramRoundTrip : Obligations.RamRoundTrip := by
  intro s addr v hs hmap hlo hhi
  have horder := lowEnd_lt_ramBase_of_mapOk hmap
  have hmachine : addr < 2 ^ s.cfg.addrBits := by
    obtain ⟨-, -, -, -, -, -, htop⟩ := mapOk_iff.1 hmap
    omega
  have hserve : serve (.memwr addr v) s =
      .next ((s.setRamByte (addr - s.cfg.ramBase) v).notifyWrite addr) := by
    rw [serve_memwr hmachine, writeMemory_of_storeOffset_some (storeOffset_ram horder hlo hhi)]
  rw [notifyWrite_eq] at hserve
  refine ⟨_, hserve, ?_, fun b hb => ?_, rfl⟩
  · show (s.setRamByte (addr - s.cfg.ramBase) v).memByte addr = v
    rw [memByte_ram (s := s.setRamByte _ v) horder hlo hhi]
    exact Memory.read_write_same hs.ram _ v
  · exact memByte_withRam_of_ne (s := s) (addr := b) (m := Memory.write ramFill s.ram (addr - s.cfg.ramBase) v)
      fun hbase => Memory.read_write_other (by omega) v

/-- Settles O23: below RAM there is no store offset, and low ROM is read past the bank registers. -/
theorem romIsReadOnly : Obligations.RomIsReadOnly := by
  intro s addr v hmap hbelow
  have hmachine : addr < 2 ^ s.cfg.addrBits := by
    obtain ⟨-, -, htop, -⟩ := mapOk_iff.1 hmap
    omega
  refine ⟨⟨if s.hooks.write then s.hookLog ++ [.write addr] else s.hookLog, ?_⟩,
    fun hlow m => memByte_low (s := s.withMap m) hlow⟩
  rw [serve_memwr hmachine, writeMemory_of_storeOffset_none (storeOffset_belowRam hbelow), notifyWrite_eq]
  rfl

/-- Settles O58: the mask is a reduction modulo the power of two that an accepted `RAM_SIZE` is. -/
theorem domainAccess : Obligations.DomainAccess := by
  refine fun s a v => ⟨rfl, rfl, fun hmap => mask_eq_mod hmap a, fun addr hmap hlo hhi => ?_⟩
  have hoff : (addr - s.cfg.ramBase) &&& (s.cfg.ramSize - 1) = addr - s.cfg.ramBase := by
    rw [mask_eq_mod hmap, Nat.mod_eq_of_lt (by omega)]
  rw [memByte_ram (lowEnd_lt_ramBase_of_mapOk hmap) hlo hhi]
  show Host.Outcome.next (s.withReply (.byte (s.ramByte ((addr - s.cfg.ramBase) &&& (s.cfg.ramSize - 1))))) = _
  rw [hoff]
  rfl

/-- Settles O50: the two checks decide, and each constraint of the map is a clause of `mapOk`. -/
theorem construct : Obligations.Construct := by
  refine fun s args => ⟨fun h => if_neg h, fun hp hsize => ?_, ?_, fun i hi => Memory.read_ofCells hi _⟩
  · have hok : exec (.construct args) s = .next (s.constructed args) := if_pos ⟨hp, hsize⟩
    exact ⟨hok, _, hok⟩
  · simp only [paramsOk, Bool.and_eq_true, decide_eq_true_eq, mapOk_iff]
    constructor
    · rintro ⟨⟨⟨h1, h2, h3, h4, h5, h6, h7⟩, hk⟩, hb⟩
      exact ⟨h1, h2, h3, h4, (isPowerOfTwo_iff h5).1 h6, h7, hk, hb⟩
    · rintro ⟨h1, h2, h3, h4, ⟨k, h6⟩, h7, hk, hb⟩
      have h5 : 0 < args.params.ramSize := h6 ▸ Nat.two_pow_pos k
      exact ⟨⟨⟨h1, h2, h3, h4, h5, (isPowerOfTwo_iff h5).2 ⟨k, h6⟩, h7⟩, hk⟩, hb⟩

end Sys2Proof.Safety
end

section
/-! PROOFS. The display: the auto-move, the accesses of both modes, the pixels of a mode-0 cell, and the frame buffer
(43_display.md R198 to R205, 48_host_interface.md R312). -/

namespace Sys2Proof.Machine

open Sys2Proof.Safety

variable {s : State} {v : Byte}

/-! The data port's two halves, by mode and by the offset. -/

theorem exec_iord17 (s : State) : exec .iord17 s = dispDataRead s := rfl

theorem exec_iowr17 (v : Byte) (s : State) : exec (.iowr17 v) s = dispDataWrite v s := rfl

theorem mode_zero_or_one (m : BitVec 1) : m = 0 ∨ m = 1 := by
  have hall : ∀ m : BitVec 1, m = 0 ∨ m = 1 := by decide
  exact hall m

theorem dispDataRead_mode1 (hmoved : s.disp.moved = false) (hmode : s.disp.mode = 1) :
    dispDataRead s = readMode1 s := by
  rw [dispDataRead, if_neg (by simp [hmoved]), if_pos hmode]

theorem dispDataRead_mode0 (hmoved : s.disp.moved = false) (hmode : s.disp.mode = 0) :
    dispDataRead s = readMode0 s := by
  rw [dispDataRead, if_neg (by simp [hmoved]), if_neg (by rw [hmode]; decide)]

theorem dispDataWrite_mode1 (hmode : s.disp.mode = 1) : dispDataWrite v s = writeMode1 v s := if_pos hmode

theorem dispDataWrite_mode0 (hmode : s.disp.mode = 0) : dispDataWrite v s = writeMode0 v s :=
  if_neg (by rw [hmode]; decide)

theorem readMode1_within (h : s.disp.offset1 < vramSize) :
    readMode1 s = .next (s.moveCursor.deliver (s.vramByte s.disp.offset1)) := if_neg (by omega)

theorem readMode1_beyond (h : vramSize ≤ s.disp.offset1) : readMode1 s = vramOobRead 0xFF s := if_pos h

theorem readMode0_within (h : s.disp.offset0 < vramSize) :
    readMode0 s = .next (s.moveCursor.deliver (extract6 (s.vramByte s.disp.offset0) s.secondByte s.disp.shift0)) :=
  if_neg (by omega)

theorem readMode0_beyond (h : vramSize ≤ s.disp.offset0) : readMode0 s = vramOobRead 0x3F s := if_pos h

theorem writeMode1_within (h : s.disp.offset1 < vramSize) :
    writeMode1 v s = .next (s.setVramByte s.disp.offset1 v).moveCursor := if_neg (by omega)

theorem writeMode1_beyond (h : vramSize ≤ s.disp.offset1) : writeMode1 v s = vramOobWrite s := if_pos h

theorem vramOobRead_sentinel (ho : s.cfg.vramOob = .sentinel) : vramOobRead v s = .next (s.moveCursor.deliver v) := by
  rw [vramOobRead, ho]

theorem vramOobWrite_sentinel (ho : s.cfg.vramOob = .sentinel) : vramOobWrite s = .next s.moveCursor := by
  rw [vramOobWrite, ho]

theorem vramOobRead_fault_iff : vramOobRead v s = .fault .vramRange ↔ s.cfg.vramOob = .stop := by
  unfold vramOobRead
  cases s.cfg.vramOob <;> simp

theorem vramOobWrite_fault_iff : vramOobWrite s = .fault .vramRange ↔ s.cfg.vramOob = .stop := by
  unfold vramOobWrite
  cases s.cfg.vramOob <;> simp

theorem readMode1_fault_iff :
    readMode1 s = .fault .vramRange ↔ s.cfg.vramOob = .stop ∧ ¬ s.disp.offset1 < vramSize := by
  by_cases h : s.disp.offset1 < vramSize
  · simp [readMode1_within h, h]
  · rw [readMode1_beyond (by omega), vramOobRead_fault_iff]
    simp [h]

theorem readMode0_fault_iff :
    readMode0 s = .fault .vramRange ↔ s.cfg.vramOob = .stop ∧ ¬ s.disp.offset0 < vramSize := by
  by_cases h : s.disp.offset0 < vramSize
  · simp [readMode0_within h, h]
  · rw [readMode0_beyond (by omega), vramOobRead_fault_iff]
    simp [h]

theorem writeMode1_fault_iff :
    writeMode1 v s = .fault .vramRange ↔ s.cfg.vramOob = .stop ∧ ¬ s.disp.offset1 < vramSize := by
  by_cases h : s.disp.offset1 < vramSize
  · simp [writeMode1_within h, h]
  · rw [writeMode1_beyond (by omega), vramOobWrite_fault_iff]
    simp [h]

/-! The six pixels of a mode-0 cell, bit by bit. -/

theorem shift0_le (d : Display) : d.shift0 ≤ 6 := by
  unfold Display.shift0 Display.pixelCol
  omega

theorem extract6_getLsbD (b0 b1 : Byte) {sh j : Nat} (hj : j < 6) :
    (extract6 b0 b1 sh).getLsbD j = (b0 ++ b1).getLsbD (10 - sh + j) := by
  have hlow : (0#2 ++ ((b0 ++ b1) >>> (10 - sh)).extractLsb' 0 6 : Byte).getLsbD j =
      (((b0 ++ b1) >>> (10 - sh)).extractLsb' 0 6).getLsbD j := by
    rw [BitVec.getLsbD_append, if_pos hj]
  rw [extract6, hlow, BitVec.getLsbD_extractLsb', BitVec.getLsbD_ushiftRight]
  simp [hj]

theorem extract6_toNat_lt (b0 b1 : Byte) (sh : Nat) : (extract6 b0 b1 sh).toNat < 64 := by
  have hvalue : (extract6 b0 b1 sh).toNat = 2 ^ 6 * (0#2).toNat + (((b0 ++ b1) >>> (10 - sh)).extractLsb' 0 6).toNat :=
    Laws.TableRow.append_toNat _ _
  have hlt := (((b0 ++ b1) >>> (10 - sh)).extractLsb' 0 6).isLt
  rw [hvalue]
  simpa using hlt

theorem twoBytes_getLsbD (b0 b1 : Byte) (n : Nat) :
    (b0 ++ b1).getLsbD n = if n < 8 then b1.getLsbD n else b0.getLsbD (n - 8) := BitVec.getLsbD_append

/-- The last byte's cell starts at its place 2, so the cell does not reach past VRAM's end. -/
theorem shift0_of_lastByte {d : Display} (h : d.offset0 = 767) : d.shift0 = 2 := by
  have hx := d.x.isLt
  have hy := d.y.isLt
  unfold Display.offset0 Display.pixelCol rowStride at h
  unfold Display.shift0 Display.pixelCol
  omega

/-- Bit `5 - k` of what a mode-0 read delivers is pixel `k` of the cell (R201). -/
theorem extract6_pixel (hoff : s.disp.offset0 < vramSize) {k : Nat} (hk : k < 6) :
    (extract6 (s.vramByte s.disp.offset0) s.secondByte s.disp.shift0).getLsbD (5 - k) =
      pixelBit s s.disp.y.toNat (6 * s.disp.x.toNat + k) := by
  have hsh := shift0_le s.disp
  rw [extract6_getLsbD _ _ (by omega), twoBytes_getLsbD, pixelBit]
  by_cases hfirst : s.disp.shift0 + k < 8
  · have haddr : s.disp.y.toNat * rowStride + (6 * s.disp.x.toNat + k) / 8 = s.disp.offset0 := by
      unfold Display.offset0 Display.pixelCol
      unfold Display.shift0 Display.pixelCol at hfirst
      omega
    have hplace : (6 * s.disp.x.toNat + k) % 8 = s.disp.shift0 + k := by
      unfold Display.shift0 Display.pixelCol at *
      omega
    rw [if_neg (by omega), haddr, hplace]
    congr 1
    omega
  · have haddr : s.disp.y.toNat * rowStride + (6 * s.disp.x.toNat + k) / 8 = s.disp.offset0 + 1 := by
      unfold Display.offset0 Display.pixelCol
      unfold Display.shift0 Display.pixelCol at hfirst
      omega
    have hplace : (6 * s.disp.x.toNat + k) % 8 = s.disp.shift0 + k - 8 := by
      unfold Display.shift0 Display.pixelCol at *
      omega
    have hnext : s.disp.offset0 + 1 < vramSize := by
      by_contra hlast
      have h767 : s.disp.offset0 = 767 := by unfold vramSize at *; omega
      have := shift0_of_lastByte h767
      omega
    rw [if_pos (by omega), haddr, hplace, State.secondByte, if_pos hnext]
    congr 1
    omega

/-- The mask of six pixels, left-aligned. -/
theorem mask6_getLsbD (n : Nat) : (0xFC#8).getLsbD n = decide (2 ≤ n ∧ n < 8) := by
  by_cases hn : n < 8
  · interval_cases n <;> rfl
  · rw [BitVec.getLsbD_of_ge _ _ (by omega)]
    simp [hn]

theorem align6_getLsbD (v : Byte) (n : Nat) :
    (align6 v).getLsbD n = (decide (2 ≤ n ∧ n < 8) && v.getLsbD (n - 2)) := by
  have happend : (align6 v).getLsbD n = if n < 2 then (0#2).getLsbD n else (v.extractLsb' 0 6).getLsbD (n - 2) :=
    BitVec.getLsbD_append
  rw [happend]
  by_cases h2 : n < 2
  · simp [h2]
  · rw [if_neg h2, BitVec.getLsbD_extractLsb']
    by_cases h8 : n < 8
    · have h1 : n - 2 < 6 := by omega
      simp [h1, h8]
      omega
    · have h1 : ¬ n - 2 < 6 := by omega
      simp [h1, h8]

/-- The first byte of a mode-0 write: the places from `sh` on take the value's pixels, the others keep theirs. -/
theorem mergeFirst_getLsbD (old v : Byte) {sh i : Nat} (hi : i < 8) :
    (mergeFirst old v sh).getLsbD i =
      if 2 ≤ sh + i ∧ sh + i < 8 then v.getLsbD (sh + i - 2) else old.getLsbD i := by
  unfold mergeFirst
  rw [BitVec.getLsbD_or, BitVec.getLsbD_and, BitVec.getLsbD_not, BitVec.getLsbD_ushiftRight, BitVec.getLsbD_ushiftRight,
    mask6_getLsbD, align6_getLsbD]
  by_cases h : 2 ≤ sh + i ∧ sh + i < 8 <;> simp [h, hi]

/-- The spill byte: the places before `sh - 2` take the value's last pixels. -/
theorem mergeSpill_getLsbD (old v : Byte) {sh i : Nat} (hi : i < 8) (hsh : sh ≤ 8) :
    (mergeSpill old v sh).getLsbD i = if 10 ≤ sh + i then v.getLsbD (sh + i - 10) else old.getLsbD i := by
  unfold mergeSpill
  rw [BitVec.getLsbD_or, BitVec.getLsbD_and, BitVec.getLsbD_not, BitVec.getLsbD_shiftLeft, BitVec.getLsbD_shiftLeft,
    mask6_getLsbD, align6_getLsbD]
  have hindex : i - (8 - sh) - 2 = sh + i - 10 := by omega
  by_cases h : 10 ≤ sh + i
  · have hin : ¬ i < 8 - sh ∧ 2 ≤ i - (8 - sh) ∧ i - (8 - sh) < 8 := by omega
    simp [h, hi, hin, hindex]
  · have hout : ¬ (2 ≤ i - (8 - sh) ∧ i - (8 - sh) < 8) := by omega
    simp [h, hi, hout]

/-! VRAM after a mode-0 write. -/

theorem putCell0_vram (s : State) (v : Byte) : s.putCell0 v = s.withVram (s.putCell0 v).vram := by
  unfold State.putCell0
  simp only
  split_ifs <;> rfl

theorem putCell0_beyond (h : vramSize ≤ s.disp.offset0) : s.putCell0 v = s := if_neg (by omega)

section PutCell

variable (hwf : Memory.wf vramFill s.vram = true) (hoff : s.disp.offset0 < vramSize)

include hwf hoff

theorem putCell0_read_first : (s.putCell0 v).vramByte s.disp.offset0 =
    mergeFirst (s.vramByte s.disp.offset0) v s.disp.shift0 := by
  unfold State.putCell0
  simp only [if_pos hoff]
  split
  · exact (Memory.read_write_other (by omega) _).trans (Memory.read_write_same hwf _ _)
  · exact Memory.read_write_same hwf _ _

theorem putCell0_read_spill (hsh : 2 < s.disp.shift0) (hnext : s.disp.offset0 + 1 < vramSize) :
    (s.putCell0 v).vramByte (s.disp.offset0 + 1) =
      mergeSpill (s.vramByte (s.disp.offset0 + 1)) v s.disp.shift0 := by
  have hother : (s.setVramByte s.disp.offset0 (mergeFirst (s.vramByte s.disp.offset0) v s.disp.shift0)).vramByte
      (s.disp.offset0 + 1) = s.vramByte (s.disp.offset0 + 1) := Memory.read_write_other (by omega) _
  unfold State.putCell0
  simp only [if_pos hoff, if_pos (And.intro hsh hnext)]
  rw [hother]
  exact Memory.read_write_same (Memory.wf_write hwf _ _) _ _

end PutCell

theorem putCell0_read_unspilled (hsh : ¬ 2 < s.disp.shift0) :
    (s.putCell0 v).vramByte (s.disp.offset0 + 1) = s.vramByte (s.disp.offset0 + 1) := by
  unfold State.putCell0
  simp only
  split
  · rw [if_neg (fun h => hsh h.1)]
    exact Memory.read_write_other (by omega) _
  · rfl

theorem putCell0_read_other {a : Nat} (h0 : a ≠ s.disp.offset0) (h1 : a ≠ s.disp.offset0 + 1) :
    (s.putCell0 v).vramByte a = s.vramByte a := by
  unfold State.putCell0
  simp only
  split
  · split
    · exact (Memory.read_write_other h1 _).trans (Memory.read_write_other h0 _)
    · exact Memory.read_write_other h0 _
  · rfl

/-- The pixels of the cell take the value's bits 5:0, and every other pixel keeps its bit (R203). -/
theorem putCell0_pixel (hwf : Memory.wf vramFill s.vram = true) (hoff : s.disp.offset0 < vramSize) {row col : Nat}
    (hrow : row < 64) (hcol : col < 96) :
    pixelBit (s.putCell0 v) row col =
      if 96 * s.disp.y.toNat + 6 * s.disp.x.toNat ≤ 96 * row + col ∧
        96 * row + col < 96 * s.disp.y.toNat + 6 * s.disp.x.toNat + 6
      then v.getLsbD (5 - (96 * row + col - (96 * s.disp.y.toNat + 6 * s.disp.x.toNat)))
      else pixelBit s row col := by
  have hsh := shift0_le s.disp
  have hfirst : 96 * s.disp.y.toNat + 6 * s.disp.x.toNat = 8 * s.disp.offset0 + s.disp.shift0 := by
    unfold Display.offset0 Display.shift0 Display.pixelCol rowStride
    omega
  have hhere : 96 * row + col = 8 * (row * rowStride + col / 8) + col % 8 := by unfold rowStride; omega
  have haddr : row * rowStride + col / 8 < vramSize := by unfold rowStride vramSize; omega
  rw [hfirst, hhere]
  unfold pixelBit
  generalize row * rowStride + col / 8 = a at haddr ⊢
  have hq : col % 8 < 8 := Nat.mod_lt _ (by decide)
  generalize col % 8 = q at hq ⊢
  by_cases h0 : a = s.disp.offset0
  · subst h0
    rw [putCell0_read_first hwf hoff, mergeFirst_getLsbD _ _ (by omega)]
    exact ite_congr (propext (by omega)) (fun _ => congrArg _ (by omega)) fun _ => rfl
  by_cases h1 : a = s.disp.offset0 + 1
  · subst h1
    by_cases hspill : 2 < s.disp.shift0
    · rw [putCell0_read_spill hwf hoff hspill haddr, mergeSpill_getLsbD _ _ (by omega) (by omega)]
      exact ite_congr (propext (by omega)) (fun _ => congrArg _ (by omega)) fun _ => rfl
    · rw [putCell0_read_unspilled hspill, if_neg (by omega)]
  · rw [putCell0_read_other h0 h1, if_neg (by omega)]

theorem writeMode0_eq : writeMode0 v s =
    .next { s with disp := s.disp.autoMove s.cfg.xMask, vram := (s.putCell0 v).vram } := by
  rw [writeMode0, putCell0_vram]
  rfl

/-! A read with the cursor put back on a cell. -/

theorem read_putBack_mode1 (u : State) {d : Display} (hmode : d.mode = 1) (hoff : d.offset1 < vramSize) :
    ∃ w, exec .iord17 (u.withDisp { d with moved := false }) = .next w ∧
      w.delivered = u.delivered ++ [u.vramByte d.offset1] :=
  have hread := dispDataRead_mode1 (s := u.withDisp { d with moved := false }) rfl hmode
  ⟨_, hread.trans (readMode1_within hoff), rfl⟩

theorem read_putBack_mode0 (u : State) {d : Display} (hmode : d.mode = 0) (hoff : d.offset0 < vramSize) :
    ∃ w, exec .iord17 (u.withDisp { d with moved := false }) = .next w ∧
      w.delivered = u.delivered ++ [extract6 (u.vramByte d.offset0) (u.withDisp d).secondByte d.shift0] :=
  have hread := dispDataRead_mode0 (s := u.withDisp { d with moved := false }) rfl hmode
  ⟨_, hread.trans (readMode0_within hoff), rfl⟩

/-- A byte whose low bits are `v`'s and whose bits 7:6 are zero is `v` with those two masked off. -/
theorem eq_and_mask6 {b : Byte} (hlow : ∀ k, k < 6 → b.getLsbD (5 - k) = v.getLsbD (5 - k)) (hlt : b.toNat < 64) :
    b = v &&& 0x3F := by
  refine BitVec.eq_of_getLsbD_eq fun i hi => ?_
  rw [BitVec.getLsbD_and]
  by_cases h6 : i < 6
  · have hmask : (0x3F : Byte).getLsbD i = true := by interval_cases i <;> rfl
    have hbit := hlow (5 - i) (by omega)
    rw [show 5 - (5 - i) = i by omega] at hbit
    rw [hbit, hmask, Bool.and_true]
  · have hmask : (0x3F : Byte).getLsbD i = false := by
      obtain rfl | rfl : i = 6 ∨ i = 7 := by omega
      · rfl
      · rfl
    have hhigh : b.toNat < 2 ^ i := lt_of_lt_of_le hlt (Nat.pow_le_pow_right (n := 2) (by decide) (by omega : 6 ≤ i))
    rw [hmask, Bool.and_false, BitVec.getLsbD, Nat.testBit_lt_two_pow hhigh]

end Sys2Proof.Machine

namespace Sys2Proof.Safety

open Sys2Proof.Machine

/-- Settles O39: the two counters and the mask on every column and every row. -/
theorem autoMoveArithmetic : Obligations.AutoMoveArithmetic := by
  intro d
  have hleft : ∀ x : BitVec 5, ((x - 1) &&& 0x0F).toNat = (x.toNat + 31) % 16 := by decide
  have hright : ∀ x : BitVec 5, ((x + 1) &&& 0x0F).toNat = (x.toNat + 1) % 16 := by decide
  have hstay : ∀ x : BitVec 5, (x &&& 0x0F).toNat = x.toNat % 16 := by decide
  have hup : ∀ y : BitVec 6, ((y - 1) &&& yMask).toNat = (y.toNat + 63) % 64 := by decide
  have hdown : ∀ y : BitVec 6, ((y + 1) &&& yMask).toNat = (y.toNat + 1) % 64 := by decide
  have hkeep : ∀ y : BitVec 6, (y &&& yMask).toNat = y.toNat := by decide
  refine ⟨rfl, rfl, rfl, ?_, ?_⟩
  · show ((if d.dir = 2 then d.x - 1 else if d.dir = 3 then d.x + 1 else d.x) &&& 0x0F).toNat = _
    split_ifs
    · exact hleft d.x
    · exact hright d.x
    · exact hstay d.x
  · show ((if d.dir = 0 then d.y - 1 else if d.dir = 1 then d.y + 1 else d.y) &&& yMask).toNat = _
    split_ifs
    · exact hup d.y
    · exact hdown d.y
    · exact hkeep d.y

/-- Settles O40: the flag chooses the stale read, and the parameter whether it moves the cursor. -/
theorem staleRead : Obligations.StaleRead := by
  intro s hmoved
  have hstale : exec .iord17 s = .next (Machine.staleRead s) := if_pos hmoved
  refine ⟨fun hadv => ?_, fun hadv => ?_⟩ <;> rw [hstale, Machine.staleRead, hadv] <;> rfl

/-- Settles O41: within VRAM neither access of mode 1 meets the range check. -/
theorem byteModeAccess : Obligations.ByteModeAccess := by
  intro s v hmode hoff
  have hoff : s.disp.offset1 < vramSize := hoff
  refine ⟨fun hmoved => ?_, ?_⟩
  · rw [exec_iord17, dispDataRead_mode1 hmoved hmode, readMode1_within hoff]
    rfl
  · rw [exec_iowr17, dispDataWrite_mode1 hmode, writeMode1_within hoff]
    rfl

/-- Settles O42: the byte read is the six pixels of the cell, in the first byte and its successor. -/
theorem packedModeRead : Obligations.PackedModeRead := by
  intro s hmode hmoved hoff
  refine ⟨_, ?_, extract6_toNat_lt _ _ _, fun k hk => extract6_pixel hoff hk⟩
  rw [exec_iord17, dispDataRead_mode0 hmoved hmode, readMode0_within hoff]
  rfl

/-- Settles O43: the first byte and the spill byte take the cell's pixels, and no other byte is written. -/
theorem packedModeWrite : Obligations.PackedModeWrite := by
  intro s v hmode hs
  refine ⟨(s.putCell0 v).vram, ?_, fun hoff row col hrow hcol => putCell0_pixel hs.vram hoff hrow hcol,
    fun off h0 h1 => putCell0_read_other h0 h1, fun hbeyond => by rw [putCell0_beyond hbeyond], ?_⟩
  · rw [exec_iowr17, dispDataWrite_mode0 hmode, writeMode0_eq]
  · have hx := s.disp.x.isLt
    have hy := s.disp.y.isLt
    unfold Display.offset0 Display.pixelCol rowStride
    omega

/-- Settles O44: only the range checks of the two reads and of the mode-1 write can stop an access. -/
theorem accessesBeyondVram : Obligations.AccessesBeyondVram := by
  refine fun s v => ⟨?read, ?write, fun ho => ⟨fun hmoved hmode hoff => ?read1, fun hmoved hmode hy hx => ?read0,
    fun hmode hoff => ?write1⟩⟩
  case read =>
    rw [exec_iord17]
    cases hmoved : s.disp.moved with
    | true => simp [dispDataRead, hmoved]
    | false =>
      obtain hmode | hmode := mode_zero_or_one s.disp.mode
      · rw [dispDataRead_mode0 hmoved hmode, readMode0_fault_iff, offset0_lt_iff, not_not]
        simp [hmode]
      · rw [dispDataRead_mode1 hmoved hmode, readMode1_fault_iff, offset1_lt_iff, not_not]
        simp [hmode]
  case write =>
    rw [exec_iowr17]
    obtain hmode | hmode := mode_zero_or_one s.disp.mode
    · simp [dispDataWrite_mode0 hmode, writeMode0, hmode]
    · rw [dispDataWrite_mode1 hmode, writeMode1_fault_iff, offset1_lt_iff, not_not]
      simp [hmode]
  case read1 =>
    rw [exec_iord17, dispDataRead_mode1 hmoved hmode, readMode1_beyond hoff, vramOobRead_sentinel ho]
    rfl
  case read0 =>
    have hoff : ¬ s.disp.offset0 < vramSize := by rw [offset0_lt_iff]; simp [hy, hx]
    rw [exec_iord17, dispDataRead_mode0 hmoved hmode, readMode0_beyond (by omega), vramOobRead_sentinel ho]
    rfl
  case write1 =>
    rw [exec_iowr17, dispDataWrite_mode1 hmode, writeMode1_beyond hoff, vramOobWrite_sentinel ho]
    rfl

/-- Settles O45: in mode 1 the byte written is the byte read; in mode 0 the six pixels written are the six read. -/
theorem cellReadBack : Obligations.CellReadBack := by
  refine fun s t v hs h => ⟨fun hmode hoff => ?byte, fun hmode hx => ?packed⟩
  case byte =>
    rw [exec_iowr17, dispDataWrite_mode1 hmode, writeMode1_within hoff] at h
    cases h
    have hbyte : (s.setVramByte s.disp.offset1 v).moveCursor.vramByte s.disp.offset1 = v :=
      Memory.read_write_same hs.vram _ v
    have hread := read_putBack_mode1 (s.setVramByte s.disp.offset1 v).moveCursor hmode hoff
    rwa [hbyte] at hread
  case packed =>
    have hy := s.disp.y.isLt
    have hoff : s.disp.offset0 < vramSize := by rw [offset0_lt_iff]; omega
    rw [exec_iowr17, dispDataWrite_mode0 hmode, writeMode0] at h
    cases h
    have hpixels (k : Nat) (hk : k < 6) :
        (extract6 ((s.putCell0 v).vramByte s.disp.offset0) ((s.putCell0 v).withDisp s.disp).secondByte
          s.disp.shift0).getLsbD (5 - k) = v.getLsbD (5 - k) := by
      have hread := extract6_pixel (s := (s.putCell0 v).withDisp s.disp) hoff hk
      have hcell := putCell0_pixel (v := v) hs.vram hoff (row := s.disp.y.toNat) (col := 6 * s.disp.x.toNat + k)
        (by omega) (by omega)
      rw [if_pos (by omega), show 96 * s.disp.y.toNat + (6 * s.disp.x.toNat + k) -
        (96 * s.disp.y.toNat + 6 * s.disp.x.toNat) = k by omega] at hcell
      exact hread.trans hcell
    have hread := read_putBack_mode0 (s.putCell0 v).moveCursor hmode hoff
    rwa [← eq_and_mask6 hpixels (extract6_toNat_lt _ _ _)]

/-- Settles O59: the list is over the pixels in row-major order. -/
theorem framebuffer : Obligations.Framebuffer := by
  intro s
  refine ⟨s.framebuffer, rfl, by rw [State.framebuffer, List.length_map, List.length_range]; rfl, fun row col hrow hcol => ?_⟩
  have hlt : row * 96 + col < fbWidth * fbHeight := show row * 96 + col < 6144 by omega
  have hdiv : (row * 96 + col) / fbWidth = row := show (row * 96 + col) / 96 = row by omega
  have hmod : (row * 96 + col) % fbWidth = col := show (row * 96 + col) % 96 = col by omega
  rw [State.framebuffer, List.getElem?_map, List.getElem?_range hlt, Option.map_some, hdiv, hmod]
  rfl

end Sys2Proof.Safety
end

section
/-! PROOFS. The button matrix by bits (44_input_mux.md R221 to R225), the frame, the interrupt and the counters
(47_frame_scheduler.md R291 to R295), and the reset (70_reset_and_hazards.md R350). -/

namespace Sys2Proof.Machine

open Sys2Proof.Safety

variable {s t : State}

/-! The matrix: bit `b` toggles once for each pressed button of a selected group that maps to it. -/

/-- The pressed buttons of a group that map to bit `b`. -/
def pressedInGroup (s : State) (b : Nat) (group : List (Line × Nat)) : Nat :=
  group.countP fun e => s.btn e.1 && decide (e.2 = b)

/-- The sum of a group's numbers over the groups from number `g` on that `mask` selects. -/
def selectedSum (count : List (Line × Nat) → Nat) (mask : Byte) (g : Nat) : List (List (Line × Nat)) → Nat
  | [] => 0
  | group :: rest => (if mask.getLsbD g then 0 else count group) + selectedSum count mask (g + 1) rest

theorem muxFrom_getLsbD (s : State) (mask : Byte) {b : Nat} (hb : b < 8) (groups : List (List (Line × Nat))) (g : Nat)
    (acc : Byte) : (muxFrom s mask g groups acc).getLsbD b =
      (acc.getLsbD b ^^ decide (selectedSum (pressedInGroup s b) mask g groups % 2 = 1)) := by
  induction groups generalizing g acc with
  | nil => simp [muxFrom, selectedSum]
  | cons group rest ih =>
    rw [muxFrom, ih, selectedSum]
    cases mask.getLsbD g with
    | true => simp
    | false =>
      have hodd (m n : Nat) : (decide (m % 2 = 1) ^^ decide (n % 2 = 1)) = decide ((m + n) % 2 = 1) := by
        rw [← Bool.coe_iff_coe]
        by_cases hm : m % 2 = 1 <;> by_cases hn : n % 2 = 1 <;> simp [hm, hn] <;> omega
      rw [if_neg Bool.false_ne_true, if_neg Bool.false_ne_true, muxGroup_getLsbD s group acc b hb, Bool.xor_assoc]
      exact congrArg _ (hodd _ _)

theorem selectedSum_take {count : List (Line × Nat) → Nat} (hnil : count [] = 0) (mask : Byte) (n g : Nat)
    (groups : List (List (Line × Nat))) :
    (((List.range n).filter fun j => !mask.getLsbD (g + j)).map fun j => count (groups.getD j [])).sum =
      selectedSum count mask g (groups.take n) := by
  induction n generalizing g groups with
  | zero => rfl
  | succ n ih =>
    have hshift : (fun j => !mask.getLsbD (g + j)) ∘ Nat.succ = fun j => !mask.getLsbD (g + 1 + j) := by
      funext j
      simp only [Function.comp, Nat.succ_eq_add_one, Nat.add_assoc, Nat.add_comm 1]
    rw [List.range_succ_eq_map, List.filter_cons, List.filter_map, hshift]
    cases groups with
    | nil =>
      simp only [List.take_nil, selectedSum]
      split <;> simp [hnil, Function.comp_def]
    | cons group rest =>
      rw [List.take_succ_cons, selectedSum, ← ih (g + 1) rest, Nat.add_zero]
      cases mask.getLsbD g <;> simp [Function.comp_def]

theorem pressedOnBit_eq (s : State) (mask : Byte) (b : Nat) :
    pressedOnBit s mask b = selectedSum (pressedInGroup s b) mask 0 (s.cfg.keymap.take 7) := by
  rw [← selectedSum_take rfl]
  simp only [Nat.zero_add]
  rfl

/-- Bit `b` of the matrix (R221 (c), R105). -/
theorem mux_getLsbD (s : State) (mask : Byte) {b : Nat} (hb : b < 8) :
    (mux s mask).getLsbD b = !decide (pressedOnBit s mask b % 2 = 1) := by
  have hones : (0xFF : Byte).getLsbD b = true := by interval_cases b <;> rfl
  rw [mux, muxFrom_getLsbD s mask hb, hones, Bool.true_xor, ← pressedOnBit_eq]

theorem mux_eq_of_bits {mask v : Byte} (h : ∀ b, b < 8 → v.getLsbD b = !decide (pressedOnBit s mask b % 2 = 1)) :
    mux s mask = v :=
  BitVec.eq_of_getLsbD_eq fun b hb => (mux_getLsbD s mask hb).trans (h b hb).symm

theorem mux_of_none_pressed {mask : Byte} (h : ∀ b, pressedOnBit s mask b = 0) : mux s mask = 0xFF :=
  mux_eq_of_bits fun b hb => by
    rw [h]
    interval_cases b <;> rfl

theorem pressedOnBit_congr {mask : Byte} (hk : t.cfg.keymap = s.cfg.keymap)
    (h : ∀ g group e, g < 7 → mask.getLsbD g = false → s.cfg.keymap[g]? = some group → e ∈ group → t.btn e.1 = s.btn e.1)
    (b : Nat) : pressedOnBit t mask b = pressedOnBit s mask b := by
  unfold pressedOnBit
  rw [hk]
  refine congrArg List.sum (List.map_congr_left fun g hg => List.countP_congr fun e he => ?_)
  obtain ⟨hrange, hsel⟩ := List.mem_filter.1 hg
  cases hgroup : s.cfg.keymap[g]? with
  | none => simp [List.getD, hgroup] at he
  | some group =>
    rw [h g group e (List.mem_range.1 hrange) (by simpa using hsel) hgroup (by simpa [List.getD, hgroup] using he)]

/-! One button, in the table that `CONSTRUCT` accepts (R224, R225). -/

theorem noRepeats_iff {α : Type} [DecidableEq α] (l : List α) : noRepeats l = true ↔ l.Nodup := by
  induction l with
  | nil => simp [noRepeats]
  | cons x l ih => simp [noRepeats, ih]

section Keymap

variable {km : List (List (Line × Nat))} (hkm : keymapOk km = true) {g : Nat} {group : List (Line × Nat)}
  (hgroup : km[g]? = some group)

include hkm hgroup

theorem keymap_group_lt : g < 7 := by
  simp only [keymapOk, Bool.and_eq_true, decide_eq_true_eq] at hkm
  obtain ⟨⟨hlen, -⟩, -⟩ := hkm
  obtain ⟨hlt, -⟩ := List.getElem?_eq_some_iff.1 hgroup
  omega

theorem keymap_names_nodup : (group.map (·.1)).Nodup := by
  simp only [keymapOk, Bool.and_eq_true, noRepeats_iff] at hkm
  obtain ⟨⟨-, hnames⟩, -⟩ := hkm
  have hsub : group.Sublist km.flatten := List.sublist_flatten_of_mem (List.mem_of_getElem? hgroup)
  exact hnames.sublist (hsub.map _)

end Keymap

/-- Among pairs without a repeated name, the pair of the name `name` is the one that counts. -/
theorem countP_of_nodup {group : List (Line × Nat)} (hnodup : (group.map (·.1)).Nodup) {name : Line} {b : Nat}
    (he : (name, b) ∈ group) {q : Nat} : group.countP (fun e => decide (e.1 = name) && decide (e.2 = q)) =
      if b = q then 1 else 0 := by
  induction group with
  | nil => cases he
  | cons e rest ih =>
    rw [List.map_cons, List.nodup_cons] at hnodup
    obtain ⟨hnew, hrest⟩ := hnodup
    rw [List.countP_cons]
    obtain rfl | he := List.mem_cons.1 he
    · have hzero : rest.countP (fun e => decide (e.1 = name) && decide (e.2 = q)) = 0 := by
        rw [List.countP_eq_zero]
        intro e' he' hname
        simp only [Bool.and_eq_true, decide_eq_true_eq] at hname
        exact hnew (hname.1 ▸ List.mem_map_of_mem (f := (·.1)) he')
      rw [hzero]
      simp
    · have hne : e.1 ≠ name := fun h => hnew (h ▸ List.mem_map_of_mem (f := (·.1)) he)
      rw [ih hrest he]
      simp [hne]

theorem oneBit_getLsbD {g j : Nat} (hj : j < 8) : ((0xFF : Byte) ^^^ (1#8 <<< g)).getLsbD j = !decide (j = g) := by
  have hones : (0xFF : Byte).getLsbD j = true := by interval_cases j <;> rfl
  rw [BitVec.getLsbD_xor, hones, Bool.true_xor, BitVec.getLsbD_shiftLeft, BitVec.getLsbD_one]
  by_cases hlt : j < g
  · simp [hlt, Nat.ne_of_lt hlt]
  · have hsub : j - g = 0 ↔ j = g := by omega
    simp [hj, hlt, hsub]

/-- With the mask of one group alone, only that group's buttons count. -/
theorem pressedOnBit_of_oneGroup {g : Nat} (hg : g < 7) {group : List (Line × Nat)} (hgroup : s.cfg.keymap[g]? = some group)
    (b : Nat) : pressedOnBit s ((0xFF : Byte) ^^^ (1#8 <<< g)) b = pressedInGroup s b group := by
  have hselected : ((List.range 7).filter fun j => !((0xFF : Byte) ^^^ (1#8 <<< g)).getLsbD j) = [g] := by
    have hbits : ∀ j ∈ List.range 7, (!((0xFF : Byte) ^^^ (1#8 <<< g)).getLsbD j) = decide (j = g) := fun j hj => by
      rw [oneBit_getLsbD (by have := List.mem_range.1 hj; omega), Bool.not_not]
    rw [List.filter_congr hbits]
    interval_cases g <;> rfl
  rw [pressedOnBit, hselected]
  simp [List.getD, hgroup, pressedInGroup]

/-! The bursts of a frame. -/

theorem burst_of_done (h : engineRun s.engine s.cpu s.cfg.cyclesPerBurst = .done) : burst s = .next s.sampleOn.assertIrq := by
  have hrun : executeCycles s.cfg.cyclesPerBurst s.sampleOn = .next s.sampleOn := by
    rw [executeCycles, show engineRun s.sampleOn.engine s.sampleOn.cpu s.cfg.cyclesPerBurst = .done from h]
    rfl
  rw [burst, hrun]
  rfl

/-- A silent burst after a silent one changes nothing more. -/
theorem bursts_of_done (h : engineRun s.engine s.cpu s.cfg.cyclesPerBurst = .done) (n : Nat) :
    bursts (n + 1) s = .next s.sampleOn.assertIrq := by
  induction n generalizing s with
  | zero => rw [bursts, burst_of_done h]; rfl
  | succ n ih =>
    rw [bursts, burst_of_done h, andThen_next, ih (s := s.sampleOn.assertIrq) h]
    rfl

/-! The lag flag and the counters through a run. -/

/-- The flag is cleared exactly by an access to port 1, and no transaction reaches a counter. -/
theorem BusEffect.ctr_eq {u : Transaction} (h : BusEffect s u t) :
    t.ctr = { s.ctr with lagFlag := s.ctr.lagFlag && !touchesPort1 u } := by
  cases h with
  | memrd | memwr => simp [touchesPort1]
  | iord1 | iowr1 => simp [touchesPort1, State.clearLagFlag]
  | iordElse p v h0 h1 h17 => simp [touchesPort1, h1]
  | iowrElse p v h1 => simp [touchesPort1, h1]
  | iord0 | iord17 | iowr0 | iowr2 | iowr3 | iowr16 => simp [touchesPort1]
  | iowr17 => simp [touchesPort1, State.moveCursor]

theorem runEngine_ctr (r : EngineRun) (last : Option Byte) (h : runEngine r last s = .next t) :
    t.ctr = { s.ctr with lagFlag := s.ctr.lagFlag && !(runTrace r last s).any touchesPort1 } := by
  induction r generalizing s last with
  | done => cases h; simp [runTrace]
  | compute c r ih => exact ih last h
  | irqAck r ih => exact ih last h
  | bus u r ih =>
    rw [runEngine_bus] at h
    obtain ⟨w, hw, h⟩ := andThen_eq_next.1 h
    rw [ih _ h, (serve_effect hw).ctr_eq]
    simp only [runTrace, hw, List.any_cons, Bool.not_or, Bool.and_assoc]
  | onByte v y n ihy ihn =>
    unfold runEngine at h
    unfold runTrace
    split at h
    · rename_i hv; rw [if_pos hv]; exact ihy last h
    · rename_i hv; rw [if_neg hv]; exact ihn last h
  | onIrq y n ihy ihn =>
    unfold runEngine at h
    unfold runTrace
    split at h
    · rename_i hv; rw [if_pos hv]; exact ihy last h
    · rename_i hv; rw [if_neg hv]; exact ihn last h

theorem bursts_ctr {n : Nat} (h : bursts n s = .next t) :
    t.ctr = { s.ctr with lagFlag := s.ctr.lagFlag && !(burstsTrace n s).any touchesPort1 } := by
  induction n generalizing s with
  | zero => cases h; simp [burstsTrace]
  | succ n ih =>
    obtain ⟨u, hu, h⟩ := andThen_eq_next.1 h
    obtain ⟨w, hw, hwu⟩ := andThen_eq_next.1 hu
    cases hwu
    have hrun : w.ctr = _ := runEngine_ctr _ none hw
    have hrest := ih h
    rw [show w.assertIrq.ctr = w.ctr from rfl, hrun] at hrest
    rw [hrest]
    simp only [burstsTrace, hu, List.any_append, Bool.not_or, Bool.and_assoc]
    rfl

theorem bursts_irqLine {n : Nat} (h : bursts (n + 1) s = .next t) : t.irqLine = true := by
  induction n generalizing s with
  | zero =>
    obtain ⟨u, hu, h⟩ := andThen_eq_next.1 h
    obtain ⟨w, -, hw⟩ := andThen_eq_next.1 hu
    cases hw
    cases h
    rfl
  | succ n ih =>
    obtain ⟨u, -, h⟩ := andThen_eq_next.1 h
    exact ih h

end Sys2Proof.Machine

namespace Sys2Proof.Safety

open Sys2Proof.Machine

/-- Settles O33: each bit of the matrix is a parity, and an accepted table lists a name once. -/
theorem matrixClearsExactlyThePressedBit : Obligations.MatrixClearsExactlyThePressedBit := by
  refine ⟨fun s m b hb => ?parity, fun s m names h => ?deselected, fun s g group name b hkm hgroup he hone => ?one,
    fun s m h => ?empty, fun s m h => ?disabled⟩
  case parity => rw [mux_getLsbD s m hb]; simp
  case deselected =>
    refine mux_eq_of_bits fun b hb => ?_
    rw [mux_getLsbD s m hb, pressedOnBit_congr (s := s) (t := { s with buttons := names }) rfl fun g group e hg hm hgr he => ?_]
    rw [← Bool.coe_iff_coe, ← h g group e hg hm hgr he]
    exact List.contains_iff_mem
  case one =>
    have hg := keymap_group_lt hkm hgroup
    refine mux_eq_of_bits fun q hq => ?_
    have hcount : pressedInGroup s q group = if b = q then 1 else 0 := by
      rw [← countP_of_nodup (keymap_names_nodup hkm hgroup) he]
      refine List.countP_congr fun e _ => ?_
      simp only [Bool.and_eq_true, hone, decide_eq_true_eq]
    rw [oneBit_getLsbD hq, pressedOnBit_of_oneGroup hg hgroup, hcount]
    by_cases hbq : b = q
    · simp [hbq]
    · simp [hbq, Ne.symm hbq]
  case empty =>
    refine mux_of_none_pressed fun b => ?_
    simp [pressedOnBit, State.btn, h]
  case disabled =>
    refine mux_of_none_pressed fun b => ?_
    have hnone : ((List.range 7).filter fun g => !m.getLsbD g) = [] :=
      List.filter_eq_nil_iff.2 fun g hg => by simp [h g (List.mem_range.1 hg)]
    rw [pressedOnBit, hnone]
    rfl

/-- Settles O46: every burst of the frame samples ON and asserts the line, and does no more. -/
theorem silentFrameAndAcknowledge : Obligations.SilentFrameAndAcknowledge := by
  refine fun s => ⟨fun hdone hpos => ?_, rfl⟩
  obtain ⟨n, hn⟩ : ∃ n, s.cfg.burstsPerFrame = n + 1 := ⟨s.cfg.burstsPerFrame - 1, by omega⟩
  show execFrameAdvance s = _
  rw [execFrameAdvance, hn, bursts_of_done (s := s.openFrame) hdone, andThen_next]
  simp only [State.closeFrame, State.assertIrq, State.sampleOn, State.openFrame, State.setLagFlag, State.withCtr,
    State.withInFrame, State.withIrqLine, State.withKbd, State.btn, if_true]

/-- Settles O47: the flag set at the frame's start survives exactly the transactions that do not touch port 1, and the last
burst asserts the line. -/
theorem lagLaw : Obligations.LagLaw := by
  intro s t h
  obtain ⟨u, hu, ht⟩ := andThen_eq_next.1 (show execFrameAdvance s = .next t from h)
  cases ht
  have hctr : u.ctr = { s.ctr with lagFlag := !frameTouchesPort1 s } := bursts_ctr hu
  have hclosed : u.closeFrame.ctr = { u.ctr with
      frame := u.ctr.frame + 1
      lag := if u.ctr.lagFlag then u.ctr.lag + 1 else u.ctr.lag
      isLag := u.ctr.lagFlag } := rfl
  rw [hclosed, hctr]
  refine ⟨rfl, rfl, ?_, fun hpos => ?_⟩
  · cases frameTouchesPort1 s <;> rfl
  · obtain ⟨n, hn⟩ : ∃ n, s.cfg.burstsPerFrame = n + 1 := ⟨s.cfg.burstsPerFrame - 1, by omega⟩
    rw [hn] at hu
    exact show u.irqLine = true from bursts_irqLine hu

/-- Settles O48: the two arms of each operation. -/
theorem counterAccess : Obligations.CounterAccess := fun _ _ => ⟨rfl, rfl, rfl, rfl⟩

/-- Settles O49: the reset writes an empty RAM, which reads its fill, and the registers as they are written out. -/
theorem hardReset : Obligations.HardReset := fun s => ⟨s.hardReset, rfl, fun _ => rfl, rfl⟩

/-- Settles O60: the names kept are those of the set among the names of the table. -/
theorem setButtons : Obligations.SetButtons := by
  refine fun s names => ⟨_, rfl, fun n => ?_⟩
  have htable : n ∈ buttonTable s.cfg ↔ n = onName ∨ ∃ group ∈ s.cfg.keymap, ∃ k, (n, k) ∈ group := by
    rw [buttonTable, List.mem_append, List.mem_singleton, or_comm]
    refine or_congr Iff.rfl ?_
    simp only [List.mem_map, List.mem_flatten]
    constructor
    · rintro ⟨⟨n, k⟩, ⟨group, hg, he⟩, rfl⟩
      exact ⟨group, hg, k, he⟩
    · rintro ⟨group, hg, k, he⟩
      exact ⟨(n, k), ⟨group, hg, he⟩, rfl⟩
  rw [← htable, and_comm]
  exact List.contains_iff_mem.trans (List.mem_filter.trans (and_congr Iff.rfl List.contains_iff_mem))

end Sys2Proof.Safety
end

section
/-! PROOFS. Determinism (40_cpu_sequencer.md R133, 47_frame_scheduler.md R297) and the memory hooks that only observe
(20_memory.md R87): two states that differ in what `bare` leaves out go through every operation side by side. -/

namespace Sys2Proof.Machine

open Sys2Proof.Safety

/-- What `bare` leaves out of a state. -/
structure Outer where
  read : Bool
  write : Bool
  testCount : Nat
  pending : List Slot
  delivered : List Byte
  hookLog : List HookEvent
  reply : Reply

def outer (s : State) : Outer where
  read := s.hooks.read
  write := s.hooks.write
  testCount := s.link.testCount
  pending := s.pending
  delivered := s.delivered
  hookLog := s.hookLog
  reply := s.reply

/-- The state with another outside. -/
def State.dress (s : State) (o : Outer) : State :=
  { s with
    hooks := { s.hooks with read := o.read, write := o.write }
    link := { s.link with testCount := o.testCount }
    pending := o.pending
    delivered := o.delivered
    hookLog := o.hookLog
    reply := o.reply }

variable {s t : State} {o : Outer}

/-- Two states that agree inside differ by their outside alone. -/
theorem exists_dress (h : bare s = bare t) : ∃ o, t = s.dress o :=
  ⟨outer t, (congrArg (fun u => u.dress (outer t)) h).symm⟩

theorem bare_dress (s : State) (o : Outer) : bare (s.dress o) = bare s := rfl

/-- From `s` to `a` as from `t` to `b`: the insides agree, and the outsides have grown by the same. -/
structure Parallel (s t a b : State) : Prop where
  inside : bare a = bare b
  delivered : ∃ bs, a.delivered = s.delivered ++ bs ∧ b.delivered = t.delivered ++ bs
  hookLog : s.hooks = t.hooks →
    a.hooks = b.hooks ∧ ∃ hs, a.hookLog = s.hookLog ++ hs ∧ b.hookLog = t.hookLog ++ hs
  reply : (a.reply = s.reply ∧ b.reply = t.reply) ∨ a.reply = b.reply
  testCount : ∃ k, a.link.testCount = s.link.testCount + k ∧ b.link.testCount = t.link.testCount + k

theorem Parallel.refl (h : bare s = bare t := by rfl) : Parallel s t s t where
  inside := h
  delivered := ⟨[], (List.append_nil _).symm, (List.append_nil _).symm⟩
  hookLog hh := ⟨hh, [], (List.append_nil _).symm, (List.append_nil _).symm⟩
  reply := .inl ⟨rfl, rfl⟩
  testCount := ⟨0, rfl, rfl⟩

theorem Parallel.trans {a b c d : State} (h : Parallel s t a b) (h' : Parallel a b c d) : Parallel s t c d where
  inside := h'.inside
  delivered := by
    obtain ⟨bs, ha, hb⟩ := h.delivered
    obtain ⟨cs, hc, hd⟩ := h'.delivered
    exact ⟨bs ++ cs, by rw [hc, ha, List.append_assoc], by rw [hd, hb, List.append_assoc]⟩
  hookLog hh := by
    obtain ⟨hab, hs, ha, hb⟩ := h.hookLog hh
    obtain ⟨hcd, ks, hc, hd⟩ := h'.hookLog hab
    exact ⟨hcd, hs ++ ks, by rw [hc, ha, List.append_assoc], by rw [hd, hb, List.append_assoc]⟩
  reply := by
    obtain ⟨hc, hd⟩ | hcd := h'.reply
    · rw [hc, hd]; exact h.reply
    · exact .inr hcd
  testCount := by
    obtain ⟨j, ha, hb⟩ := h.testCount
    obtain ⟨k, hc, hd⟩ := h'.testCount
    exact ⟨j + k, by rw [hc, ha, Nat.add_assoc], by rw [hd, hb, Nat.add_assoc]⟩

/-- A change inside the state alone. -/
theorem Parallel.inner {a b : State} (h : bare a = bare b := by rfl) (ha : outer a = outer s := by rfl)
    (hb : outer b = outer t := by rfl) (hpoll : s.hooks = t.hooks → a.hooks = b.hooks := by exact id) : Parallel s t a b := by
  simp only [outer, Outer.mk.injEq] at ha hb
  obtain ⟨-, -, ha3, -, ha5, ha6, ha7⟩ := ha
  obtain ⟨-, -, hb3, -, hb5, hb6, hb7⟩ := hb
  exact ⟨h, ⟨[], by rw [ha5, List.append_nil], by rw [hb5, List.append_nil]⟩,
    fun hh => ⟨hpoll hh, [], by rw [ha6, List.append_nil], by rw [hb6, List.append_nil]⟩, .inl ⟨ha7, hb7⟩, 0, ha3, hb3⟩

/-- The same byte delivered to both. -/
theorem Parallel.deliver (v : Byte) (h : bare s = bare t := by rfl) : Parallel s t (s.deliver v) (t.deliver v) where
  inside := h
  delivered := ⟨[v], rfl, rfl⟩
  hookLog hh := ⟨hh, [], (List.append_nil _).symm, (List.append_nil _).symm⟩
  reply := .inl ⟨rfl, rfl⟩
  testCount := ⟨0, rfl, rfl⟩

/-- The same reply to both. -/
theorem Parallel.answer (r : Reply) (h : bare s = bare t := by rfl) : Parallel s t (s.withReply r) (t.withReply r) where
  inside := h
  delivered := ⟨[], (List.append_nil _).symm, (List.append_nil _).symm⟩
  hookLog hh := ⟨hh, [], (List.append_nil _).symm, (List.append_nil _).symm⟩
  reply := .inr rfl
  testCount := ⟨0, rfl, rfl⟩

/-- The log grows by the same where the same hooks are registered. -/
theorem Parallel.log (f : HookBundle → List HookEvent) (h : bare s = bare t := by rfl) :
    Parallel s t (s.withHookLog (s.hookLog ++ f s.hooks)) (t.withHookLog (t.hookLog ++ f t.hooks)) where
  inside := h
  delivered := ⟨[], (List.append_nil _).symm, (List.append_nil _).symm⟩
  hookLog hh := ⟨hh, f s.hooks, rfl, by rw [hh]; rfl⟩
  reply := .inl ⟨rfl, rfl⟩
  testCount := ⟨0, rfl, rfl⟩

/-- Two results, side by side: both go on, or both stop alike. -/
inductive Alike (s t : State) : Result → Result → Prop
  | next {a b : State} (h : Parallel s t a b) : Alike s t (.next a) (.next b)
  | fault (e : Fault) : Alike s t (.fault e) (.fault e)
  | refused (e : Refusal) : Alike s t (.refused e) (.refused e)

/-- What is alike after a step side by side is alike. -/
theorem Alike.after {a b : State} {r r' : Result} (h : Parallel s t a b) (hr : Alike a b r r') : Alike s t r r' := by
  cases hr with
  | next h' => exact .next (h.trans h')
  | fault e => exact .fault e
  | refused e => exact .refused e

theorem Alike.andThen {r r' : Result} {f f' : State → Result} (h : Alike s t r r')
    (hf : ∀ a b, r = .next a → Parallel s t a b → Alike a b (f a) (f' b)) : Alike s t (andThen r f) (andThen r' f') := by
  cases h with
  | fault e => exact .fault e
  | refused e => exact .refused e
  | next h => exact .after h (hf _ _ rfl h)

/-! The link: only the harness's counter differs, and it grows by the same. -/

/-- The two answers of a link operation from a link and from the same link with the counter at `n`. -/
inductive Recounts (l : Link) (n : Nat) : Except Fault Link → Except Fault Link → Prop
  | ok (l' : Link) (k : Nat) (h : l'.testCount = l.testCount + k) :
    Recounts l n (.ok l') (.ok { l' with testCount := n + k })
  | error (e : Fault) : Recounts l n (.error e) (.error e)

variable {l : Link} {n : Nat} {p : Params}

theorem Recounts.same {l' : Link} (h : l'.testCount = l.testCount) :
    Recounts l n (.ok l') (.ok { l' with testCount := n }) := .ok l' 0 h

theorem Recounts.from_same {l' : Link} {r r' : Except Fault Link} (h : Recounts l' n r r')
    (hl : l'.testCount = l.testCount) : Recounts l n r r' := by
  cases h with
  | ok l' k h => exact .ok l' k (h.trans (by rw [hl]))
  | error e => exact .error e

/-- A branch that does not look at the counter is the same branch. -/
theorem Recounts.ite {c : Prop} [Decidable c] {x y x' y' : Except Fault Link} (hx : c → Recounts l n x x')
    (hy : ¬ c → Recounts l n y y') : Recounts l n (if c then x else y) (if c then x' else y') := by
  by_cases hc : c
  · rw [if_pos hc, if_pos hc]; exact hx hc
  · rw [if_neg hc, if_neg hc]; exact hy hc

theorem Recounts.okIte {c : Prop} [Decidable c] {x y x' y' : Link} (hx : c → Recounts l n (.ok x) (.ok x'))
    (hy : ¬ c → Recounts l n (.ok y) (.ok y')) :
    Recounts l n (.ok (if c then x else y)) (.ok (if c then x' else y')) := by
  by_cases hc : c
  · rw [if_pos hc, if_pos hc]; exact hx hc
  · rw [if_neg hc, if_neg hc]; exact hy hc

theorem Link.sendNextFile_recount (p : Params) (l : Link) (n : Nat) :
    ({ l with testCount := n } : Link).sendNextFile p = { l.sendNextFile p with testCount := n } ∧
      (l.sendNextFile p).testCount = l.testCount := by
  obtain ⟨lineOut, lineIn, active, phase, queue, bits, bitStep, cur, toSend, cont, file, hdr, var, testCount⟩ := l
  cases file with
  | none => exact ⟨rfl, rfl⟩
  | some f =>
    simp only [Link.sendNextFile]
    split <;> exact ⟨rfl, rfl⟩

theorem Link.sendVariableData_recounts (p : Params) (l : Link) (n : Nat) :
    Recounts l n (l.sendVariableData p) (({ l with testCount := n } : Link).sendVariableData p) := by
  unfold Link.sendVariableData
  simp only
  split
  · exact .error _
  · exact .ite (fun _ => .same rfl) fun _ => .same rfl

theorem Link.runContinuation_recounts (p : Params) (l : Link) (n : Nat) :
    Recounts l n (l.runContinuation p) (({ l with testCount := n } : Link).runContinuation p) := by
  obtain ⟨lineOut, lineIn, active, phase, queue, bits, bitStep, cur, toSend, cont, file, hdr, var, testCount⟩ := l
  cases cont with
  | none | receiveReqAck | receiveDataAck | endTransmission | endOutOfMemory => exact .same rfl
  | sendVariableData => exact Link.sendVariableData_recounts p _ n
  | finalize =>
    obtain ⟨h, hcount⟩ := Link.sendNextFile_recount p
      ⟨lineOut, lineIn, false, phase, [], bits, bitStep, cur, toSend, .none, file, hdr, var, testCount⟩ n
    exact (congrArg (Recounts _ n _) (congrArg Except.ok h)).mpr (.same hcount)
  | test => exact .ok _ 1 rfl

theorem Link.receiveStep_recounts (p : Params) (l : Link) (n : Nat) :
    Recounts l n (l.receiveStep p) (({ l with testCount := n } : Link).receiveStep p) := by
  refine .ite (fun _ => .same rfl) fun _ => .ite (fun _ => ?ack) fun _ => .ite (fun _ => .same rfl) fun _ =>
    .ite (fun _ => ?idle) fun _ => .ite (fun _ => ?count) fun _ => .same rfl
  case ack => exact .okIte (fun _ => .same rfl) fun _ => .same rfl
  case idle => exact .okIte (fun _ => .same rfl) fun _ => .same rfl
  case count =>
    exact .ite (fun _ => .ite (fun _ => .same rfl) fun _ =>
      (Link.runContinuation_recounts p { l with bits := l.bits - 1, phase := .inactive } n).from_same rfl) fun _ => .same rfl

theorem Link.sendStep_recounts (p : Params) (l : Link) (n : Nat) :
    Recounts l n (l.sendStep p) (({ l with testCount := n } : Link).sendStep p) := by
  refine .ite (fun _ => ?capture) fun _ => .ite (fun _ => .same rfl) fun _ => .ite (fun _ => ?release) fun _ =>
    .ite (fun _ => .same rfl) fun _ => .ite (fun _ => ?count) fun _ => .same rfl
  case capture => exact .okIte (fun _ => .same rfl) fun _ => .same rfl
  case release => exact .okIte (fun _ => .same rfl) fun _ => .same rfl
  case count =>
    exact .ite (fun _ => .ite (fun _ => .same rfl) fun _ =>
      (Link.runContinuation_recounts p { l with
        bits := l.bits - 1, queue := l.queue ++ [l.cur], toSend := l.toSend - 1, phase := .inactive } n).from_same rfl)
      fun _ => .same rfl

theorem Link.tick_recounts (p : Params) (l : Link) (n : Nat) :
    Recounts l n (l.tick p) (({ l with testCount := n } : Link).tick p) := by
  obtain ⟨lineOut, lineIn, active, phase, queue, bits, bitStep, cur, toSend, cont, file, hdr, var, testCount⟩ := l
  cases phase with
  | inactive => exact .same rfl
  | prepareReceive =>
    cases queue with
    | nil => exact .error _
    | cons b rest => exact .ite (fun _ => (Link.receiveStep_recounts p _ n).from_same rfl) fun _ => .same rfl
  | prepareSend =>
    exact .ite (fun _ => .ite (fun _ => (Link.sendStep_recounts p _ n).from_same rfl) fun _ => .same rfl) fun _ => .same rfl
  | receive => exact Link.receiveStep_recounts p _ n
  | send => exact Link.sendStep_recounts p _ n

/-! Every transaction. -/

theorem Alike.ite {c : Prop} [Decidable c] {x y x' y' : Result} (hx : c → Alike s t x x') (hy : ¬ c → Alike s t y y') :
    Alike s t (if c then x else y) (if c then x' else y') := by
  by_cases hc : c
  · rw [if_pos hc, if_pos hc]; exact hx hc
  · rw [if_neg hc, if_neg hc]; exact hy hc

/-- Both change alike inside, and nothing outside. -/
theorem Alike.inner {a b : State} (h : bare a = bare b := by rfl) (ha : outer a = outer s := by rfl)
    (hb : outer b = outer t := by rfl) (hpoll : s.hooks = t.hooks → a.hooks = b.hooks := by exact id) :
    Alike s t (.next a) (.next b) :=
  .next (.inner h ha hb hpoll)

/-- Both change alike inside, and then the same byte is delivered. -/
theorem Alike.innerDeliver (v : Byte) {a b : State} (h : bare a = bare b := by rfl) (ha : outer a = outer s := by rfl)
    (hb : outer b = outer t := by rfl) (hpoll : s.hooks = t.hooks → a.hooks = b.hooks := by exact id) :
    Alike s t (.next (a.deliver v)) (.next (b.deliver v)) :=
  .next ((Parallel.inner h ha hb hpoll).trans (.deliver v h))

/-- A list that grows by one event if the event is registered. -/
theorem append_if (log : List HookEvent) (b : Bool) (e : HookEvent) :
    (if b then log ++ [e] else log) = log ++ if b then [e] else [] := by
  cases b
  · exact (List.append_nil log).symm
  · rfl

theorem notifyRead_parallel {a b : State} (h : bare a = bare b) (addr : Nat) :
    Parallel a b (a.notifyRead addr) (b.notifyRead addr) := by
  rw [notifyRead_eq, notifyRead_eq, append_if, append_if]
  exact .log (fun hooks => if hooks.read then [.read addr] else []) h

theorem notifyWrite_parallel {a b : State} (h : bare a = bare b) (addr : Nat) :
    Parallel a b (a.notifyWrite addr) (b.notifyWrite addr) := by
  rw [notifyWrite_eq, notifyWrite_eq, append_if, append_if]
  exact .log (fun hooks => if hooks.write then [.write addr] else []) h

theorem readMemory_alike (addr : Nat) : Alike s (s.dress o) (readMemory addr s) (readMemory addr (s.dress o)) := by
  have hlog := notifyRead_parallel (bare_dress s o).symm addr
  exact .next (hlog.trans (.deliver (s.memByte addr) hlog.inside))

theorem writeMemory_alike (addr : Nat) (v : Byte) :
    Alike s (s.dress o) (writeMemory addr v s) (writeMemory addr v (s.dress o)) := by
  have hoff : (s.dress o).storeOffset addr = s.storeOffset addr := rfl
  unfold writeMemory
  rw [hoff]
  split
  · rename_i off _
    have hstore : Parallel s (s.dress o) (s.setRamByte off v) ((s.dress o).setRamByte off v) := .inner
    exact .next (hstore.trans (notifyWrite_parallel hstore.inside addr))
  · exact .next (notifyWrite_parallel (bare_dress s o).symm addr)

theorem tick_alike (h : bare s = bare t) : Alike s t (tick s) (tick t) := by
  obtain ⟨o, rfl⟩ := exists_dress h
  have h : Recounts s.link o.testCount (s.link.tick s.cfg) ((s.dress o).link.tick (s.dress o).cfg) :=
    Link.tick_recounts s.cfg s.link o.testCount
  unfold tick
  generalize s.link.tick s.cfg = r at h
  generalize (s.dress o).link.tick (s.dress o).cfg = r' at h
  cases h with
  | error e => exact .fault e
  | ok l' k h =>
    exact .next ⟨rfl, ⟨[], (List.append_nil _).symm, (List.append_nil _).symm⟩,
      fun hh => ⟨hh, [], (List.append_nil _).symm, (List.append_nil _).symm⟩, .inl ⟨rfl, rfl⟩, k, h, rfl⟩

theorem execIord0_alike : Alike s (s.dress o) (execIord0 s) (execIord0 (s.dress o)) := by
  refine (tick_alike (by rfl)).andThen fun a b _ h => ?_
  obtain ⟨o, rfl⟩ := exists_dress h.inside
  exact .next (.deliver _)

theorem execIowr0_alike (v : Byte) : Alike s (s.dress o) (execIowr0 v s) (execIowr0 v (s.dress o)) := by
  have hload : Parallel s (s.dress o) (s.loadPort0 v) ((s.dress o).loadPort0 v) := .inner
  exact .ite (fun _ => .next .refl) fun _ => .ite (fun _ => .after hload (tick_alike hload.inside)) fun _ => .next hload

theorem pollHook_parallel : Parallel s (s.dress o) s.pollHook (s.dress o).pollHook := by
  have hpoll : (s.dress o).hooks.poll = s.hooks.poll := rfl
  have hfeed : (s.dress o).pollFeed = s.pollFeed := rfl
  unfold State.pollHook
  rw [hpoll, hfeed]
  split
  · have hlog : Parallel s (s.dress o) (s.withHookLog (s.hookLog ++ [.poll]))
        ((s.dress o).withHookLog ((s.dress o).hookLog ++ [.poll])) := .log fun _ => [.poll]
    split
    · exact hlog
    · exact hlog.trans .inner
  · exact .refl

theorem execIord1_alike : Alike s (s.dress o) (execIord1 s) (execIord1 (s.dress o)) := by
  have hclear : Parallel s (s.dress o) s.clearLagFlag (s.clearLagFlag.dress o) := .inner
  have h : Parallel s (s.dress o) s.clearLagFlag.pollHook (s.dress o).clearLagFlag.pollHook :=
    hclear.trans pollHook_parallel
  have hmux : ∀ a b, bare a = bare b → mux b b.kbd.keyMask = mux a a.kbd.keyMask := by
    intro a b hab
    obtain ⟨o, rfl⟩ := exists_dress hab
    exact mux_congr (s := a) (t := a.dress o) rfl rfl _
  unfold execIord1
  simp only
  rw [hmux _ _ h.inside]
  exact .next (h.trans (.deliver _ h.inside))

theorem vramOobRead_alike (v : Byte) : Alike s (s.dress o) (vramOobRead v s) (vramOobRead v (s.dress o)) := by
  have hoob : (s.dress o).cfg.vramOob = s.cfg.vramOob := rfl
  unfold vramOobRead
  rw [hoob]
  split
  · exact .fault _
  · exact .innerDeliver _

theorem vramOobWrite_alike : Alike s (s.dress o) (vramOobWrite s) (vramOobWrite (s.dress o)) := by
  have hoob : (s.dress o).cfg.vramOob = s.cfg.vramOob := rfl
  unfold vramOobWrite
  rw [hoob]
  split
  · exact .fault _
  · exact .inner

theorem staleRead_alike : Alike s (s.dress o) (.next (staleRead s)) (.next (staleRead (s.dress o))) := by
  have hadv : (s.dress o).cfg.staleReadAdvances = s.cfg.staleReadAdvances := rfl
  unfold staleRead
  simp only
  rw [hadv]
  split <;> exact .innerDeliver _

theorem dispDataRead_alike : Alike s (s.dress o) (dispDataRead s) (dispDataRead (s.dress o)) :=
  .ite (fun _ => staleRead_alike) fun _ => .ite
    (fun _ => .ite (fun _ => vramOobRead_alike _) fun _ => .innerDeliver _)
    fun _ => .ite (fun _ => vramOobRead_alike _) fun _ => .innerDeliver _

theorem putCell0_dress (v : Byte) : (s.dress o).putCell0 v = (s.putCell0 v).dress o := by
  have hdisp : (s.dress o).disp = s.disp := rfl
  unfold State.putCell0
  simp only
  rw [hdisp]
  split
  · split <;> rfl
  · rfl

theorem writeMode0_alike (v : Byte) : Alike s (s.dress o) (writeMode0 v s) (writeMode0 v (s.dress o)) := by
  unfold writeMode0
  rw [putCell0_dress, putCell0_vram]
  exact .inner

theorem dispDataWrite_alike (v : Byte) : Alike s (s.dress o) (dispDataWrite v s) (dispDataWrite v (s.dress o)) :=
  .ite (fun _ => .ite (fun _ => vramOobWrite_alike) fun _ => .inner) fun _ => writeMode0_alike v

theorem dispCommand_alike (c : Byte) : Alike s (s.dress o) (dispCommand c s) (dispCommand c (s.dress o)) :=
  .ite (fun _ => .inner) fun _ => .ite (fun _ => .inner) fun _ =>
    .ite (fun _ => .inner) fun _ => .ite (fun _ => .inner) fun _ =>
    .ite (fun _ => .inner) fun _ => .ite (fun _ => .inner) fun _ =>
    .ite (fun _ => .inner) fun _ => .ite (fun _ => .inner) fun _ => .inner

theorem portRead_alike (p : Nat) : Alike s (s.dress o) (portRead p s) (portRead p (s.dress o)) :=
  .ite (fun _ => execIord0_alike) fun _ => .ite (fun _ => execIord1_alike) fun _ =>
    .ite (fun _ => .next (.deliver _)) fun _ => .ite (fun _ => .next (.deliver _)) fun _ =>
    .ite (fun _ => .next (.deliver _)) fun _ => .ite (fun _ => .next (.deliver _)) fun _ =>
    .ite (fun _ => dispDataRead_alike) fun _ => .next (.deliver _)

theorem portWrite_alike (p : Nat) (v : Byte) : Alike s (s.dress o) (portWrite p v s) (portWrite p v (s.dress o)) :=
  .ite (fun _ => execIowr0_alike v) fun _ => .ite (fun _ => .inner) fun _ =>
    .ite (fun _ => .inner) fun _ => .ite (fun _ => .inner) fun _ =>
    .ite (fun _ => .next (.refl)) fun _ => .ite (fun _ => dispCommand_alike v) fun _ =>
    .ite (fun _ => dispDataWrite_alike v) fun _ => .next (.refl)

theorem dispatch_dress (u : Transaction) : Alike s (s.dress o) (dispatch u s) (dispatch u (s.dress o)) := by
  cases u with
  | memrd a => exact readMemory_alike a
  | memwr a v => exact writeMemory_alike a v
  | iord p => exact portRead_alike p
  | iowr p v => exact portWrite_alike p v

theorem serve_alike (h : bare s = bare t) (u : Transaction) : Alike s t (serve u s) (serve u t) := by
  obtain ⟨o, rfl⟩ := exists_dress h
  exact .ite (fun _ => dispatch_dress u) fun _ => .fault _

/-! The engine's runs, the frame, and every operation. -/

/-- The byte just delivered is the same on both sides. -/
theorem Parallel.getLast_eq {a b : State} (h : Parallel s t a b) {v : Byte} (ha : a.delivered = s.delivered ++ [v]) :
    b.delivered.getLast? = a.delivered.getLast? := by
  obtain ⟨bs, has, hbs⟩ := h.delivered
  obtain rfl := List.append_cancel_left (ha.symm.trans has)
  rw [hbs, ha, List.getLast?_concat, List.getLast?_concat]

/-- What the engine was last given is the same on both sides. -/
theorem lastByte_eq {a b : State} {u : Transaction} {last : Option Byte} (hu : BusEffect s u a) (h : Parallel s t a b) :
    lastByte u b last = lastByte u a last := by
  cases hu with
  | memrd | iord0 | iord1 | iord17 | iordElse => exact h.getLast_eq rfl
  | memwr | iowr0 | iowr1 | iowr2 | iowr3 | iowr16 | iowr17 | iowrElse => rfl

theorem runEngine_alike (r : EngineRun) (last : Option Byte) (h : bare s = bare t) :
    Alike s t (runEngine r last s) (runEngine r last t) := by
  induction r generalizing s t last with
  | done => exact .next (.refl h)
  | compute c r ih =>
    obtain ⟨o, rfl⟩ := exists_dress h
    exact .after (a := s.withCpu c) (b := (s.dress o).withCpu c) .inner (ih last rfl)
  | bus u r ih =>
    rw [runEngine_bus, runEngine_bus]
    refine (serve_alike h u).andThen fun a b ha h => ?_
    rw [lastByte_eq (serve_effect ha) h]
    exact ih _ h.inside
  | irqAck r ih =>
    obtain ⟨o, rfl⟩ := exists_dress h
    exact .after (a := s.acknowledgeIrq) (b := (s.dress o).acknowledgeIrq) .inner (ih last rfl)
  | onByte v y n ihy ihn => exact .ite (fun _ => ihy last h) fun _ => ihn last h
  | onIrq y n ihy ihn =>
    obtain ⟨o, rfl⟩ := exists_dress h
    exact .ite (fun _ => ihy last h) fun _ => ihn last h

theorem burst_alike (h : bare s = bare t) : Alike s t (burst s) (burst t) := by
  obtain ⟨o, rfl⟩ := exists_dress h
  have hon : Parallel s (s.dress o) s.sampleOn (s.dress o).sampleOn := .inner
  refine Alike.andThen (.after hon (runEngine_alike _ none hon.inside)) fun a b _ h => ?_
  obtain ⟨o, rfl⟩ := exists_dress h.inside
  exact .inner

theorem bursts_alike (n : Nat) (h : bare s = bare t) : Alike s t (bursts n s) (bursts n t) := by
  induction n generalizing s t with
  | zero => exact .next (.refl h)
  | succ n ih => exact (burst_alike h).andThen fun a b _ h => ih h.inside

theorem execFrameAdvance_alike : Alike s (s.dress o) (execFrameAdvance s) (execFrameAdvance (s.dress o)) := by
  have hopen : Parallel s (s.dress o) s.openFrame (s.dress o).openFrame := .inner
  refine Alike.andThen (.after hopen (bursts_alike _ hopen.inside)) fun a b _ h => ?_
  obtain ⟨o, rfl⟩ := exists_dress h.inside
  exact .inner

theorem BusEffect.pending_eq {u : Transaction} (h : BusEffect s u t) : t.pending = s.pending := by
  cases h <;> rfl

/-- Both change alike inside, and then give the host the same reply. -/
theorem Alike.innerAnswer (r : Reply) {a b : State} (h : bare a = bare b := by rfl) (ha : outer a = outer s := by rfl)
    (hb : outer b = outer t := by rfl) (hpoll : s.hooks = t.hooks → a.hooks = b.hooks := by exact id) :
    Alike s t (.next (a.withReply r)) (.next (b.withReply r)) :=
  .next ((Parallel.inner h ha hb hpoll).trans (.answer r h))

/-- The link is put in on both sides, with the counter each side has. -/
theorem withLink_parallel (h : l.testCount = s.link.testCount) :
    Parallel s (s.dress o) (s.withLink l) ((s.dress o).withLink { l with testCount := o.testCount }) where
  inside := rfl
  delivered := ⟨[], (List.append_nil _).symm, (List.append_nil _).symm⟩
  hookLog hh := ⟨hh, [], (List.append_nil _).symm, (List.append_nil _).symm⟩
  reply := .inl ⟨rfl, rfl⟩
  testCount := ⟨0, h, rfl⟩

theorem execSendFile_alike (bytes : List Byte) :
    Alike s (s.dress o) (execSendFile bytes s) (execSendFile bytes (s.dress o)) := by
  refine .ite (fun _ => .refused _) fun _ => ?_
  have hcfg : (s.dress o).cfg = s.cfg := rfl
  rw [hcfg]
  split
  · exact .innerAnswer _
  · obtain ⟨h, hcount⟩ := Link.sendNextFile_recount s.cfg
      { s.link with file := some { bytes := bytes, pos := s.cfg.linkDataStart } } o.testCount
    have hlink : Link.sendNextFile s.cfg
        { (s.dress o).link with file := some { bytes := bytes, pos := s.cfg.linkDataStart } } = _ := h
    rw [hlink]
    exact .next ((withLink_parallel hcount).trans (.answer _))

theorem execLoadText_alike (snap : Snapshot) :
    Alike s (s.dress o) (execLoadText snap s) (execLoadText snap (s.dress o)) := by
  refine .ite (fun _ => ?_) fun _ => .refused _
  have hload : loadLines (s.dress o).cfg (s.dress o).engine .before (s.dress o).loadStart snap.text =
      loadLines s.cfg s.engine .before s.loadStart snap.text := rfl
  rw [hload]
  split
  · exact .refused _
  · exact .innerAnswer _

theorem execConstruct_alike (args : ConstructArgs) :
    Alike s (s.dress o) (execConstruct args s) (execConstruct args (s.dress o)) :=
  .ite (fun _ => .next ⟨rfl, ⟨[], (List.append_nil _).symm, (List.append_nil _).symm⟩,
    fun _ => ⟨rfl, [], (List.append_nil _).symm, (List.append_nil _).symm⟩, .inl ⟨rfl, rfl⟩, 0, rfl, rfl⟩) fun _ => .refused _

theorem exec_dress (i : Instr) : Alike s (s.dress o) (exec i s) (exec i (s.dress o)) := by
  by_cases hack : i = .irqAck
  · subst hack; exact .inner
  by_cases hbus : byEngine i = true
  · obtain ⟨u, hu, -⟩ := exec_as_dispatch hbus hack
    rw [hu, hu]
    exact dispatch_dress u
  cases i
  case construct args => exact execConstruct_alike args
  case sendFile bytes => exact execSendFile_alike bytes
  case loadText snap => exact execLoadText_alike snap
  case frameAdvance => exact execFrameAdvance_alike
  case hardReset | domainWrite | setButtons | dispose | loadBinary => exact .inner
  case saveText | saveBinary | domainRead | getFramebuffer => exact .innerAnswer _
  case getCounter which => cases which <;> exact .innerAnswer _
  case setCounter which n => cases which <;> exact .inner
  all_goals exact absurd rfl hbus

theorem exec_alike (i : Instr) (h : bare s = bare t) : Alike s t (exec i s) (exec i t) := by
  obtain ⟨o, rfl⟩ := exists_dress h
  exact exec_dress i

theorem runAll_alike (ops : List Instr) (h : bare s = bare t) : Alike s t (runAll ops s) (runAll ops t) := by
  induction ops generalizing s t with
  | nil => exact .next (.refl h)
  | cons i ops ih => exact (exec_alike i h).andThen fun a b _ h => ih h.inside

end Sys2Proof.Machine

namespace Sys2Proof.Safety

open Sys2Proof.Machine

/-- Settles O16: every operation keeps two states that agree inside side by side, so a sequence of them does. -/
theorem sameStateSameResults : Obligations.SameStateSameResults := by
  intro s t ops h
  have hrun := runAll_alike ops h
  unfold SameEnd
  generalize runAll ops s = r at hrun
  generalize runAll ops t = r' at hrun
  cases hrun with
  | fault e => rfl
  | refused e => rfl
  | next h =>
    rename_i a b
    exact ⟨b, rfl, h.inside, h.delivered, fun hh => (h.hookLog hh).2, h.reply⟩

/-- Settles O19: with other memory hooks the transaction goes side by side with itself, and it writes neither the hooks nor what
is presented nor the reply. -/
theorem traceHooksOnlyObserve : Obligations.TraceHooksOnlyObserve := by
  intro u s a r w log ha
  have hserve := serve_alike (s := s) (t := { s with hooks := { s.hooks with read := r, write := w }, hookLog := log }) rfl u
  rw [ha] at hserve
  generalize hb : serve u { s with hooks := { s.hooks with read := r, write := w }, hookLog := log } = rb at hserve
  cases hserve with
  | next h =>
    rename_i b
    obtain ⟨o, rfl⟩ := exists_dress h.inside
    obtain ⟨bs, hsa, hsb⟩ := h.delivered
    obtain ⟨k, hka, hkb⟩ := h.testCount
    have hina := (serve_effect ha).sameInputs
    have hinb := (serve_effect hb).sameInputs
    have hread : o.read = r := congrArg HookBundle.read hinb.hooks
    have hwrite : o.write = w := congrArg HookBundle.write hinb.hooks
    have hpending : o.pending = a.pending := (serve_effect hb).pending_eq.trans (serve_effect ha).pending_eq.symm
    have hreply : o.reply = a.reply := hinb.reply.trans hina.reply.symm
    have hdelivered : o.delivered = a.delivered := hsb.trans hsa.symm
    have hcount : o.testCount = a.link.testCount := hkb.trans hka.symm
    exact ⟨o.hookLog, congrArg Host.Outcome.next (by
      rw [State.dress, hread, hwrite, hpending, hreply, hdelivered, hcount])⟩

end Sys2Proof.Safety
end

section
/-! PROOFS. The driver's stages (46_link_protocol.md R266 to R274) at the read that ends the last byte of a phase, and
`SEND_FILE` (R263 to R265). -/

namespace Sys2Proof.Machine

open Sys2Proof.Safety

variable {s : State} {l l' : Link} {p : Params} {f : OpenFile}

theorem OpenFile.skip_of_le {n : Nat} (h : f.pos + n ≤ f.bytes.length) :
    f.skip n = { bytes := f.bytes, pos := f.pos + n } := by
  have hlen : (f.next n).length = n := by simp only [OpenFile.next, List.length_take, List.length_drop]; omega
  rw [OpenFile.skip, hlen]

/-- The next entry is requested where the file holds one (R266). -/
theorem Link.sendNextFile_of_entry (hf : l.file = some f) (h : f.pos + 13 ≤ f.bytes.length) :
    l.sendNextFile p = requestNextEntry p l f := by
  have henough : ¬ f.remaining < 13 := by unfold OpenFile.remaining; omega
  simp only [Link.sendNextFile, hf, if_neg henough, OpenFile.skip_of_le h]
  rfl

/-- The file is closed where it holds none (R274). -/
theorem Link.sendNextFile_of_end (h : ∀ f, l.file = some f → f.bytes.length < f.pos + 13) :
    l.sendNextFile p = { l with file := none } := by
  obtain ⟨lineOut, lineIn, active, phase, queue, bits, bitStep, cur, toSend, cont, file, hdr, var, testCount⟩ := l
  cases file with
  | none => rfl
  | some f =>
    have hend : f.remaining < 13 := by have := h f rfl; unfold OpenFile.remaining; omega
    simp only [Link.sendNextFile, if_pos hend]

/-- The read of port 0 that ends the last byte of a `Receive` phase runs the continuation (R240). -/
theorem Link.tick_receiveLast (hphase : l.phase = .receive) (hstep : l.bitStep = 1) (hbits : l.bits = 1)
    (hqueue : l.queue = []) : l.tick p = ({ l with bits := 0, phase := .inactive } : Link).runContinuation p := by
  simp [Link.tick, hphase, Link.receiveStep, hstep, Link.receiveCount, hbits, hqueue]

/-- The read of port 0 that ends the last byte of a `Send` phase runs the continuation (R245). -/
theorem Link.tick_sendLast (hphase : l.phase = .send) (hstep : l.bitStep = 1) (hbits : l.bits = 1) (hsend : l.toSend = 1) :
    l.tick p = ({ l with bits := 0, queue := l.queue ++ [l.cur], toSend := 0, phase := .inactive } : Link).runContinuation p := by
  simp [Link.tick, hphase, Link.sendStep, hstep, Link.sendCount, hbits, hsend]

/-- A read of port 0 leaves the link that its tick leaves. -/
theorem exec_iord0_link (h : s.link.tick s.cfg = .ok l) : ∃ t, exec .iord0 s = .next t ∧ t.link = l :=
  ⟨_, execIord0_eq h, rfl⟩

/-- Of the captured bytes the sixth is the first that is left after five are popped (R268). -/
theorem Link.sendVariableData_of_sixth {b : Byte} {rest : List Byte} (h : l.queue.drop 5 = b :: rest) :
    l.sendVariableData p = if b = p.linkOomSentinel then .ok ({ l with queue := rest } : Link).outOfMemory
      else .ok (({ l with active := true } : Link).startReceive (dataPacket p l.var) .receiveDataAck) := by
  simp only [Link.sendVariableData, h]

/-! `SEND_FILE` while the link is idle and no file is open. -/

section Idle

variable {bytes : List Byte} (hphase : s.link.phase = .inactive) (hfile : s.link.file = none)

include hphase hfile

theorem execSendFile_of_invalid {k : FormatKind} (h : validateContainer s.cfg bytes = some k) :
    execSendFile bytes s = .next (s.withReply (.formatError k)) := by
  have hclosed : ({ s.link with file := none } : Link) = s.link := by rw [← hfile]
  have hidle : ¬ (s.link.phase ≠ .inactive ∨ s.link.file ≠ none) := by simp [hphase, hfile]
  rw [execSendFile, if_neg hidle, h]
  exact congrArg (fun l => Host.Outcome.next ((s.withLink l).withReply (.formatError k))) hclosed

theorem execSendFile_of_valid (h : validateContainer s.cfg bytes = none) :
    execSendFile bytes s = .next ((s.withLink (({ s.link with
      file := some { bytes := bytes, pos := s.cfg.linkDataStart } } : Link).sendNextFile s.cfg)).withReply .accepted) := by
  have hidle : ¬ (s.link.phase ≠ .inactive ∨ s.link.file ≠ none) := by simp [hphase, hfile]
  rw [execSendFile, if_neg hidle, h]

end Idle

/-! The first check that fails decides (R264). -/

variable {bytes : List Byte}

theorem validateContainer_signature (h : bytes.take 11 ≠ p.linkMagic.toList) :
    validateContainer p bytes = some .badSignature := by
  have h11 : p.linkMagic.toList.length = 11 := by simp
  rw [validateContainer, h11, if_pos h]

section Signed

variable (hsig : bytes.take 11 = p.linkMagic.toList)

include hsig

theorem validateContainer_length
    (h : ¬ ((p.linkDataStart ≤ bytes.length ∧ p.linkSizeOffset + 2 ≤ bytes.length) ∧
      bytes.length = le16At bytes p.linkSizeOffset + p.linkOverhead)) :
    validateContainer p bytes = some .badLength := by
  have h11 : p.linkMagic.toList.length = 11 := by simp
  rw [validateContainer, h11, if_neg (not_not.2 hsig)]
  by_cases hstart : bytes.length < p.linkDataStart
  · rw [if_pos hstart]
  by_cases hfield : p.linkSizeOffset + 2 ≤ bytes.length
  · have hsize : bytes.length ≠ le16At bytes p.linkSizeOffset + p.linkOverhead :=
      fun heq => h ⟨⟨Nat.not_lt.1 hstart, hfield⟩, heq⟩
    rw [if_neg hstart, if_neg (by simpa [holdsField] using hfield), if_pos hsize]
  · rw [if_neg hstart, if_pos (by simpa [holdsField] using hfield)]

theorem validateContainer_checksum (hstart : p.linkDataStart ≤ bytes.length)
    (hfield : p.linkSizeOffset + 2 ≤ bytes.length)
    (hsize : bytes.length = le16At bytes p.linkSizeOffset + p.linkOverhead)
    (h : ¬ (p.linkDataStart + le16At bytes p.linkSizeOffset + 2 ≤ bytes.length ∧
      sum16 ((bytes.drop p.linkDataStart).take (le16At bytes p.linkSizeOffset)) =
        le16At bytes (p.linkDataStart + le16At bytes p.linkSizeOffset))) :
    validateContainer p bytes = some .badChecksum := by
  have h11 : p.linkMagic.toList.length = 11 := by simp
  rw [validateContainer, h11, if_neg (not_not.2 hsig), if_neg (by omega), if_neg (by simpa [holdsField] using hfield),
    if_neg (not_not.2 hsize)]
  by_cases hsum : p.linkDataStart + le16At bytes p.linkSizeOffset + 2 ≤ bytes.length
  · rw [if_neg (by simpa [holdsField] using hsum), if_pos fun heq => h ⟨hsum, heq⟩]
  · rw [if_pos (by simpa [holdsField] using hsum)]

end Signed

theorem Link.sendNextFile_lines (p : Params) (l : Link) :
    (l.sendNextFile p).lineOut = l.lineOut ∧ (l.sendNextFile p).lineIn = l.lineIn := by
  obtain ⟨-, h⟩ | ⟨f, -, -, h⟩ | ⟨f, -, -, h⟩ := Link.sendNextFile_cases p l <;> rw [h] <;> exact ⟨rfl, rfl⟩

end Sys2Proof.Machine

namespace Sys2Proof.Safety

open Sys2Proof.Machine

/-- Settles O29: the last tick of the phase runs the continuation, which is the stage named. -/
theorem stagesAfterReceive : Obligations.StagesAfterReceive := by
  intro s hphase hstep hbits hqueue
  have htick := Link.tick_receiveLast (p := s.cfg) hphase hstep hbits hqueue
  refine ⟨fun hc => exec_iord0_link ?_, fun hc => exec_iord0_link ?_, fun f hc hf hentry => exec_iord0_link ?_,
    fun hc hend => exec_iord0_link ?_⟩ <;> rw [htick] <;> simp only [Link.runContinuation, hc]
  · rfl
  · rfl
  · exact congrArg Except.ok (Link.sendNextFile_of_entry hf hentry)
  · exact congrArg Except.ok (Link.sendNextFile_of_end hend)

/-- Settles O30: the last tick of the phase runs the continuation; of the queue it leaves, the sixth byte decides. -/
theorem stagesAfterSend : Obligations.StagesAfterSend := by
  intro s a0 a1 a2 a3 a4 b a6 hphase hstep hbits hsend
  have htick := Link.tick_sendLast (p := s.cfg) hphase hstep hbits hsend
  refine ⟨fun hc hq => ?_, fun hc => exec_iord0_link ?_, fun hc => exec_iord0_link ?_⟩
  · have hsixth : s.link.tick s.cfg = Link.sendVariableData s.cfg { s.link with
        bits := 0, queue := [a0, a1, a2, a3, a4, b, a6, s.link.cur], toSend := 0, phase := .inactive, cont := .sendVariableData } := by
      rw [htick]
      simp only [Link.runContinuation, hc, hq]
      rfl
    rw [Link.sendVariableData_of_sixth rfl] at hsixth
    refine ⟨fun hb => exec_iord0_link ?_, fun hb => exec_iord0_link ?_⟩ <;> rw [hsixth]
    · rw [if_pos hb]
      rfl
    · rw [if_neg hb]
      rfl
  · rw [htick]
    simp only [Link.runContinuation, hc]
    rfl
  · rw [htick]
    simp only [Link.runContinuation, hc]
    rfl

/-- Settles O51: each failing check gives its kind, and the reply is all that changes; where all hold the link takes the file and
its lines stay. -/
theorem sendFileValidation : Obligations.SendFileValidation := by
  intro s bytes hphase hfile
  refine ⟨fun hsig => ?_, fun hsig hlen => ?_, fun hsig hlong hsize hsum => ?_, fun hsig hlong hsize hsum => ?_⟩
  · exact execSendFile_of_invalid hphase hfile (validateContainer_signature hsig)
  · exact execSendFile_of_invalid hphase hfile (validateContainer_length hsig hlen)
  · exact execSendFile_of_invalid hphase hfile (validateContainer_checksum hsig hlong.1 hlong.2 hsize hsum)
  · have hvalid : validateContainer s.cfg bytes = none :=
      validateContainer_eq_none.2 ⟨hsig, hlong.1, hlong.2, hsize, hsum.1, hsum.2⟩
    exact ⟨_, execSendFile_of_valid hphase hfile hvalid, Link.sendNextFile_lines _ _⟩

/-- Settles O52: with an entry in the file it is requested, with none the file is closed again. -/
theorem sendFileStartsTheRequest : Obligations.SendFileStartsTheRequest := by
  intro s bytes
  refine ⟨fun hopen => if_pos hopen, fun hphase hfile hvalid => ?_⟩
  have hexec : exec (.sendFile bytes) s = _ := execSendFile_of_valid hphase hfile hvalid
  refine ⟨fun hend => ?_, fun hentry => ?_⟩ <;> rw [hexec]
  · have hclosed : ({ s.link with file := none } : Link) = s.link := by rw [← hfile]
    rw [Link.sendNextFile_of_end (by rintro f ⟨⟩; exact hend)]
    exact congrArg (fun l => Host.Outcome.next ((s.withLink l).withReply .accepted)) hclosed
  · rw [Link.sendNextFile_of_entry rfl hentry]
    rfl

end Sys2Proof.Safety
end

section
/-! PROOFS. The exchange of a byte (45_link_fsm.md R249, R250, 95_test_vectors.md V-LK1, V-LK2, V-LK6), tick by tick: the link
in the middle of a bit, the accesses of one bit, and then the eight bits. -/

namespace Sys2Proof.Machine

open Sys2Proof.Safety

/-- The link within the exchange of a byte. -/
def Link.within (l : Link) (phase : LinkPhase) (out pulled : BitVec 2) (bits step : Nat) (cur : Byte) : Link :=
  { l with phase := phase, lineOut := out, lineIn := pulled, bits := bits, bitStep := step, cur := cur }

variable {l l' m : Link} {p : Params} {out pulled : BitVec 2} {n : Nat} {c : Byte}

/-! The ticks of a `Receive` phase (R236 to R240). -/

theorem tick_receiveDrive : (l.within .receive out pulled n 5 c).tick p =
    .ok (l.within .receive out (if c.getLsbD 0 then 2 else 1) n 4 (c >>> 1)) := rfl

theorem tick_receiveAck (h : (out ||| pulled) ^^^ 3 = 0) :
    (l.within .receive out pulled n 4 c).tick p = .ok (l.within .receive out pulled n 3 c) :=
  congrArg Except.ok (if_pos h)

theorem tick_receiveRelease :
    (l.within .receive out pulled n 3 c).tick p = .ok (l.within .receive out 0 n 2 c) := rfl

theorem tick_receiveIdle (h : (out ||| pulled) ^^^ 3 = 3) :
    (l.within .receive out pulled n 2 c).tick p = .ok (l.within .receive out pulled n 1 c) :=
  congrArg Except.ok (if_pos h)

theorem tick_receiveNextBit : (l.within .receive out pulled (n + 2) 1 c).tick p =
    .ok (l.within .receive out pulled (n + 1) 5 c) := rfl

theorem tick_receiveNextByte (h : l.queue ≠ []) : (l.within .receive out pulled 1 1 c).tick p =
    .ok (l.within .prepareReceive out pulled 0 1 c) := if_pos h

theorem tick_receiveEnd (h : l.queue = []) : (l.within .receive out pulled 1 1 c).tick p =
    (l.within .inactive out pulled 0 1 c).runContinuation p := if_neg (not_not.2 h)

/-! The ticks of a `Send` phase (R241 to R245). -/

theorem tick_sendCapture (h : (out ||| pulled) ^^^ 3 ≠ 3) : (l.within .send out pulled n 5 c).tick p =
    .ok (l.within .send out pulled n 4 (c ||| ((((out ||| pulled) ^^^ 3) &&& 1).setWidth 8 <<< (8 - n)))) := by
  have hpulled : (l.within .send out pulled n 5 c).combined ≠ 3 := h
  show Except.ok (Link.sendCapture _) = _
  rw [Link.sendCapture, if_pos hpulled]
  rfl

theorem tick_sendAck : (l.within .send out pulled n 4 c).tick p = .ok (l.within .send out (out ^^^ 3) n 3 c) := rfl

theorem tick_sendAwaitRelease : (l.within .send 0 pulled n 3 c).tick p =  .ok (l.within .send 0 pulled n 2 c) := by
  have hreleased : (l.within .send 0 pulled n 3 c).lineOut &&& 3 = 0 := BitVec.zero_and
  show Except.ok (Link.sendAwaitRelease _) = _
  rw [Link.sendAwaitRelease, if_pos hreleased]
  rfl

theorem tick_sendRelease : (l.within .send out pulled n 2 c).tick p = .ok (l.within .send out 0 n 1 c) := rfl

theorem tick_sendNextBit : (l.within .send out pulled (n + 2) 1 c).tick p = .ok (l.within .send out pulled (n + 1) 5 c) := rfl

theorem tick_sendNextByte (h : 0 < l.toSend - 1) : (l.within .send out pulled 1 1 c).tick p =
    .ok (({ l with queue := l.queue ++ [c], toSend := l.toSend - 1 } : Link).within .prepareSend out pulled 0 1 c) :=
  if_pos h

theorem tick_sendEnd (h : ¬ 0 < l.toSend - 1) : (l.within .send out pulled 1 1 c).tick p =
    (({ l with queue := l.queue ++ [c], toSend := l.toSend - 1 } : Link).within .inactive out pulled 0 1 c).runContinuation p :=
  if_neg h

/-- The Prepare transition of a `Send` phase (R235). -/
theorem Link.tick_prepareSend (hphase : l.phase = .prepareSend) (hpulled : l.combined ≠ 3) :
    l.tick p = if p.prepareFallthrough then l.prepareSend.tick p else .ok l.prepareSend := by
  simp only [Link.tick, hphase, if_pos hpulled]
  rfl

/-! The accesses to port 0. -/

/-- The state with what an exchange changes. -/
def State.exchanging (s : State) (d : List Byte) (l : Link) : State := { s with delivered := d, link := l }

/-- The value of port 0 with `bank_high` = 0, by what the machine and what the link pull (30_encoding.md R104). -/
def linesByte (out pulled : BitVec 2) : Byte := 0#4 ++ ((out ||| pulled) ^^^ 3) ++ out

theorem linesByte_released : linesByte 0 0 = 0x0C := by decide

/-- The reads of a received bit. -/
theorem linesByte_receive (b : Bool) :
    [linesByte 0 (if b then 2 else 1), linesByte (if b then 1 else 2) (if b then 2 else 1),
      linesByte (if b then 1 else 2) 0, linesByte 0 0, linesByte 0 0] = receiveReads b := by decide +revert

theorem linesByte_receiveTicking (b : Bool) :
    [linesByte 0 (if b then 2 else 1), linesByte (if b then 1 else 2) 0, linesByte 0 0] = receiveReadsTicking b := by
  decide +revert

/-- The reads of a sent bit. -/
theorem linesByte_send (b : Bool) :
    [linesByte (if b then 2 else 1) 0, linesByte (if b then 2 else 1) ((if b then 2 else 1) ^^^ 3),
      linesByte 0 ((if b then 2 else 1) ^^^ 3), linesByte 0 0, linesByte 0 0] = sendReads b := by decide +revert

theorem serveAll_cons {t u : State} {x : Transaction} {ts : List Transaction} (h : serve x t = .next u) :
    serveAll (x :: ts) t = serveAll ts u := by
  rw [serveAll, h]; rfl

section Port0

variable {s : State} {d : List Byte} {ts : List Transaction} (hlayout : s.cfg.bankHighSrcBit = 4) (hbank : s.map.bankHigh = 0)

include hbank in
/-- A read of port 0: a tick, and the lines after it. -/
theorem execIord0_exchanging (h : l.tick s.cfg = .ok l') :
    execIord0 (s.exchanging d l) = .next (s.exchanging (d ++ [linesByte l'.lineOut l'.lineIn]) l') := by
  have hread : execIord0 (s.exchanging d l) = _ := execIord0_eq h
  have hvalue : ((s.exchanging d l).withLink l').port0Value = linesByte l'.lineOut l'.lineIn := by
    show 0#3 ++ s.map.bankHigh ++ l'.combined ++ l'.lineOut = linesByte l'.lineOut l'.lineIn
    rw [hbank]; rfl
  rw [hread, hvalue]
  rfl

include hbank in
theorem serveAll_read (h : l.tick s.cfg = .ok l') :
    serveAll (.iord 0 :: ts) (s.exchanging d l) = serveAll ts (s.exchanging (d ++ [linesByte l'.lineOut l'.lineIn]) l') :=
  serveAll_cons ((serve_of_fits (fits_port0 _ 0).1).trans (execIord0_exchanging hbank h))

include hlayout hbank

/-- What a write of a line value loads. -/
theorem loadPort0_line (v : BitVec 2) :
    (s.exchanging d l).loadPort0 (0#6 ++ v) = s.exchanging d { l with lineOut := v } := by
  have hhigh : port0BankHigh s.cfg (0#6 ++ v) = s.map.bankHigh := by
    have hbit : ∀ v : BitVec 2, (0#6 ++ v).extractLsb' 4 1 = 0#1 := by decide
    rw [port0BankHigh, hlayout, hbank]; exact hbit v
  have hline : ∀ v : BitVec 2, port0LineOut (0#6 ++ v) = v := by decide
  have hmap : ({ s.map with bankHigh := port0BankHigh s.cfg (0#6 ++ v) } : Mapping) = s.map := by rw [hhigh]
  show { s with map := { s.map with bankHigh := port0BankHigh s.cfg (0#6 ++ v) }, delivered := d,
                link := { l with lineOut := port0LineOut (0#6 ++ v) } } = _
  rw [hmap, hline]
  rfl

/-- A write to port 0 while `link_active` = 0. -/
theorem serveAll_write (v : BitVec 2) (hactive : l.active = false) :
    serveAll (.iowr 0 (0#6 ++ v) :: ts) (s.exchanging d l) = serveAll ts (s.exchanging d { l with lineOut := v }) := by
  have hfilter : (s.exchanging d l).lowBankFiltered = false := by
    simp [State.lowBankFiltered, State.exchanging, hactive]
  have hwrite : execIowr0 (0#6 ++ v) (s.exchanging d l) = .next (s.exchanging d { l with lineOut := v }) := by
    rw [execIowr0, if_neg (by simp [hfilter]), if_neg (by simp [State.exchanging, hactive]), loadPort0_line hlayout hbank]
  exact serveAll_cons ((serve_of_fits (fits_port0 _ _).2).trans hwrite)

/-- A write to port 0 while `link_active` = 1, by code outside the low bank: a tick follows. -/
theorem serveAll_writeTick (v : BitVec 2) (hactive : l.active = true) (hpc : s.cfg.lowEnd ≤ s.cpu.pc)
    (h : ({ l with lineOut := v } : Link).tick s.cfg = .ok l') :
    serveAll (.iowr 0 (0#6 ++ v) :: ts) (s.exchanging d l) = serveAll ts (s.exchanging d l') := by
  have hbeyond : ¬ (s.exchanging d l).cpu.pc < (s.exchanging d l).cfg.lowEnd := Nat.not_lt.2 hpc
  have hfilter : (s.exchanging d l).lowBankFiltered = false := by
    rw [State.lowBankFiltered, decide_eq_false hbeyond, Bool.and_false]
  have hwrite : execIowr0 (0#6 ++ v) (s.exchanging d l) = .next (s.exchanging d l') := by
    rw [execIowr0, if_neg (by simp [hfilter]), if_pos ⟨hactive, by simp [hfilter]⟩, loadPort0_line hlayout hbank]
    have htick : (s.exchanging d { l with lineOut := v }).link.tick (s.exchanging d { l with lineOut := v }).cfg = .ok l' := h
    rw [tick, htick]
    rfl
  exact serveAll_cons ((serve_of_fits (fits_port0 _ _).2).trans hwrite)

/-- The same within a byte's exchange. -/
theorem serveAll_writeWithin {phase : LinkPhase} {step : Nat} (v : BitVec 2) (hactive : l.active = false) :
    serveAll (.iowr 0 (0#6 ++ v) :: ts) (s.exchanging d (l.within phase out pulled n step c)) =
      serveAll ts (s.exchanging d (l.within phase v pulled n step c)) :=
  serveAll_write hlayout hbank v hactive

theorem serveAll_writeTickWithin {phase : LinkPhase} {step : Nat} (v : BitVec 2) (hactive : l.active = true)
    (hpc : s.cfg.lowEnd ≤ s.cpu.pc) (h : (l.within phase v pulled n step c).tick s.cfg = .ok l') :
    serveAll (.iowr 0 (0#6 ++ v) :: ts) (s.exchanging d (l.within phase out pulled n step c)) =
      serveAll ts (s.exchanging d l') :=
  serveAll_writeTick hlayout hbank v hactive hpc h

/-! One bit. -/

/-- The accesses of one received bit: from a link whose tick drives the bit to where the bit's last tick leaves it. -/
theorem serveAll_receiveBit (hactive : l.active = false) (hfirst : m.tick s.cfg = (l.within .receive 0 0 n 5 c).tick s.cfg)
    (hlast : (l.within .receive 0 0 n 1 (c >>> 1)).tick s.cfg = .ok l') (hout : l'.lineOut = 0) (hin : l'.lineIn = 0) :
    serveAll (receiveBit (c.getLsbD 0) ++ ts) (s.exchanging d m) =
      serveAll ts (s.exchanging (d ++ receiveReads (c.getLsbD 0)) l') := by
  rw [tick_receiveDrive] at hfirst
  generalize c.getLsbD 0 = b at hfirst ⊢
  have hanswer : (if b then 1 else 2 : Byte) = 0#6 ++ (if b then 1 else 2 : BitVec 2) := by cases b <;> rfl
  have hboth : ((if b then 1 else 2 : BitVec 2) ||| (if b then 2 else 1)) ^^^ 3 = 0 := by cases b <;> rfl
  show serveAll (.iord 0 :: .iowr 0 (if b then 1 else 2) :: .iord 0 :: .iord 0 :: .iowr 0 (0#6 ++ (0 : BitVec 2)) :: .iord 0 ::
    .iord 0 :: ts) _ = _
  rw [hanswer, serveAll_read hbank hfirst, serveAll_writeWithin hlayout hbank _ hactive,
    serveAll_read hbank (tick_receiveAck hboth), serveAll_read hbank tick_receiveRelease,
    serveAll_writeWithin hlayout hbank _ hactive, serveAll_read hbank (tick_receiveIdle rfl), serveAll_read hbank hlast,
    hout, hin, ← linesByte_receive]
  simp only [List.append_assoc, List.cons_append, List.nil_append]
  rfl

/-- The same where the writes tick. -/
theorem serveAll_receiveBitTicking (hactive : l.active = true) (hpc : s.cfg.lowEnd ≤ s.cpu.pc)
    (hfirst : m.tick s.cfg = (l.within .receive 0 0 n 5 c).tick s.cfg)
    (hlast : (l.within .receive 0 0 n 1 (c >>> 1)).tick s.cfg = .ok l') (hout : l'.lineOut = 0) (hin : l'.lineIn = 0) :
    serveAll (receiveBitTicking (c.getLsbD 0) ++ ts) (s.exchanging d m) =
      serveAll ts (s.exchanging (d ++ receiveReadsTicking (c.getLsbD 0)) l') := by
  rw [tick_receiveDrive] at hfirst
  generalize c.getLsbD 0 = b at hfirst ⊢
  have hanswer : (if b then 1 else 2 : Byte) = 0#6 ++ (if b then 1 else 2 : BitVec 2) := by cases b <;> rfl
  have hboth : ((if b then 1 else 2 : BitVec 2) ||| (if b then 2 else 1)) ^^^ 3 = 0 := by cases b <;> rfl
  show serveAll (.iord 0 :: .iowr 0 (if b then 1 else 2) :: .iord 0 :: .iowr 0 (0#6 ++ (0 : BitVec 2)) :: .iord 0 :: ts) _ = _
  rw [hanswer, serveAll_read hbank hfirst, serveAll_writeTickWithin hlayout hbank _ hactive hpc (tick_receiveAck hboth),
    serveAll_read hbank tick_receiveRelease, serveAll_writeTickWithin hlayout hbank _ hactive hpc (tick_receiveIdle rfl),
    serveAll_read hbank hlast, hout, hin, ← linesByte_receiveTicking]
  simp only [List.append_assoc, List.cons_append, List.nil_append]
  rfl

/-- The byte being captured with the bit `b` put at its place. -/
def capture (c : Byte) (b : Bool) (n : Nat) : Byte := c ||| ((if b then 1#2 else 0#2).setWidth 8 <<< (8 - n))

/-- The accesses of one sent bit: from a link whose tick, with a line pulled, captures the bit. -/
theorem serveAll_sendBit (b : Bool) (hactive : l.active = false) (hm : m.active = false)
    (hfirst : ∀ v, v ≠ 0 → ({ m with lineOut := v } : Link).tick s.cfg = (l.within .send v 0 n 5 c).tick s.cfg)
    (hlast : (l.within .send 0 0 n 1 (capture c b n)).tick s.cfg = .ok l') (hout : l'.lineOut = 0) (hin : l'.lineIn = 0) :
    serveAll (sendBit b ++ ts) (s.exchanging d m) = serveAll ts (s.exchanging (d ++ sendReads b) l') := by
  have hline : sendLine b = 0#6 ++ (if b then 2 else 1 : BitVec 2) := by cases b <;> rfl
  have hpull : (if b then 2 else 1 : BitVec 2) ≠ 0 := by cases b <;> decide
  have hseen : ((if b then 2 else 1 : BitVec 2) ||| 0) ^^^ 3 ≠ 3 := by cases b <;> decide
  have hbit : (((if b then 2 else 1 : BitVec 2) ||| 0) ^^^ 3) &&& 1 = if b then 1#2 else 0#2 := by cases b <;> rfl
  have hfirst := (hfirst _ hpull).trans (tick_sendCapture hseen)
  rw [hbit, ← capture] at hfirst
  show serveAll (.iowr 0 (sendLine b) :: .iord 0 :: .iord 0 :: .iowr 0 (0#6 ++ (0 : BitVec 2)) :: .iord 0 :: .iord 0 ::
    .iord 0 :: ts) _ = _
  rw [hline, serveAll_write hlayout hbank _ hm, serveAll_read hbank hfirst, serveAll_read hbank tick_sendAck,
    serveAll_writeWithin hlayout hbank _ hactive, serveAll_read hbank tick_sendAwaitRelease,
    serveAll_read hbank tick_sendRelease, serveAll_read hbank hlast, hout, hin, ← linesByte_send]
  simp only [List.append_assoc, List.cons_append, List.nil_append]
  rfl

end Port0

/-! The bits of a byte. -/

/-- By these accesses and with these reads the link receives a bit. -/
def ReceivesBit (s : State) (l : Link) (accesses : Bool → List Transaction) (reads : Bool → List Byte) : Prop :=
  ∀ (m l' : Link) (d : List Byte) (n : Nat) (c : Byte) (ts : List Transaction),
    m.tick s.cfg = (l.within .receive 0 0 n 5 c).tick s.cfg →
    (l.within .receive 0 0 n 1 (c >>> 1)).tick s.cfg = .ok l' → l'.lineOut = 0 → l'.lineIn = 0 →
    serveAll (accesses (c.getLsbD 0) ++ ts) (s.exchanging d m) =
      serveAll ts (s.exchanging (d ++ reads (c.getLsbD 0)) l')

/-- The low bits of a byte are its first bit and those of the byte shifted. -/
theorem lowBits_succ (c : Byte) (n : Nat) :
    (List.range (n + 1)).map c.getLsbD = c.getLsbD 0 :: (List.range n).map (c >>> 1).getLsbD := by
  rw [List.range_succ_eq_map, List.map_cons, List.map_map]
  refine congrArg _ (List.map_congr_left fun i _ => ?_)
  rw [BitVec.getLsbD_ushiftRight, Nat.add_comm]
  rfl

/-- The low bits are received one by one. -/
theorem serveAll_receiveBits {s : State} {accesses : Bool → List Transaction} {reads : Bool → List Byte}
    (hbit : ReceivesBit s l accesses reads) {d : List Byte} (hfirst : m.tick s.cfg = (l.within .receive 0 0 (n + 1) 5 c).tick s.cfg)
    (hlast : (l.within .receive 0 0 1 1 (c >>> (n + 1))).tick s.cfg = .ok l') (hout : l'.lineOut = 0) (hin : l'.lineIn = 0) :
    serveAll (((List.range (n + 1)).map c.getLsbD).flatMap accesses) (s.exchanging d m) =
      .next (s.exchanging (d ++ ((List.range (n + 1)).map c.getLsbD).flatMap reads) l') := by
  induction n generalizing m d c with
  | zero =>
    have h := hbit m l' d 1 c [] hfirst hlast hout hin
    simpa [serveAll] using h
  | succ n ih =>
    rw [lowBits_succ, List.flatMap_cons, List.flatMap_cons,
      hbit m _ d (n + 2) c _ hfirst tick_receiveNextBit rfl rfl, ih rfl (by rw [← BitVec.shiftRight_add, Nat.add_comm 1]; exact hlast),
      List.append_assoc]

/-- The byte with its low `k` bits captured, and one bit more. -/
theorem capture_lowBits (b : Byte) {n k : Nat} (h : k + n + 1 = 8) :
    capture ((b.setWidth k).setWidth 8) (b.getLsbD k) (n + 1) = (b.setWidth (k + 1)).setWidth 8 := by
  have hplace : 8 - (n + 1) = k := by omega
  have hbit : ∀ (x : Bool) (j : Nat), ((if x then 1#2 else 0#2).setWidth 8).getLsbD j = (x && decide (j = 0)) := by
    intro x j
    cases x <;> rcases j with _ | _ | j <;> simp
  refine BitVec.eq_of_getLsbD_eq fun i hi => ?_
  rw [capture, hplace, BitVec.getLsbD_or, BitVec.getLsbD_shiftLeft, hbit]
  simp only [BitVec.getLsbD_setWidth, hi, decide_true, Bool.true_and]
  obtain hlt | rfl | hgt := Nat.lt_trichotomy i k
  · simp [hlt, Nat.lt_succ_of_lt hlt]
  · simp
  · have hne : i - k ≠ 0 := by omega
    simp [Nat.not_lt.2 (Nat.le_of_lt hgt), Nat.not_lt.2 (Nat.succ_le_of_lt hgt), hne]

/-- The bits from number `k` on are sent one by one. -/
theorem serveAll_sendBits {s : State} (hlayout : s.cfg.bankHighSrcBit = 4) (hbank : s.map.bankHigh = 0)
    (hactive : l.active = false) {b : Byte} {k : Nat} (hk : k + n + 1 = 8) {d : List Byte} (hm : m.active = false)
    (hfirst : ∀ v, v ≠ 0 → ({ m with lineOut := v } : Link).tick s.cfg =
      (l.within .send v 0 (n + 1) 5 ((b.setWidth k).setWidth 8)).tick s.cfg)
    (hlast : (l.within .send 0 0 1 1 b).tick s.cfg = .ok l') (hout : l'.lineOut = 0) (hin : l'.lineIn = 0) :
    serveAll (((List.range' k (n + 1)).map b.getLsbD).flatMap sendBit) (s.exchanging d m) =
      .next (s.exchanging (d ++ ((List.range' k (n + 1)).map b.getLsbD).flatMap sendReads) l') := by
  induction n generalizing m d k with
  | zero =>
    have hwhole : capture ((b.setWidth k).setWidth 8) (b.getLsbD k) 1 = b := by
      obtain rfl : k = 7 := by omega
      rw [capture_lowBits b (n := 0) (k := 7) rfl]
      simp
    have h := serveAll_sendBit hlayout hbank (d := d) (ts := []) (b.getLsbD k) hactive hm hfirst (by rw [hwhole]; exact hlast) hout hin
    simpa [serveAll] using h
  | succ n ih =>
    have h := serveAll_sendBit hlayout hbank (d := d) (ts := ((List.range' (k + 1) (n + 1)).map b.getLsbD).flatMap sendBit)
      (b.getLsbD k) hactive hm hfirst tick_sendNextBit rfl rfl
    rw [capture_lowBits b hk] at h
    have hnext := ih (m := l.within .send 0 0 (n + 1) 5 ((b.setWidth (k + 1)).setWidth 8)) (k := k + 1) (by omega)
      (d := d ++ sendReads (b.getLsbD k)) hactive fun v _ => rfl
    rw [List.range'_succ, List.map_cons, List.flatMap_cons, List.flatMap_cons, h, hnext, List.append_assoc]

/-! Where the exchange begins and ends. -/

theorem within_released {phase : LinkPhase} {step : Nat} (hout : l.lineOut = 0) (hin : l.lineIn = 0) :
    l.within phase 0 0 n step c = { l with phase := phase, bits := n, bitStep := step, cur := c } := by
  rw [Link.within, hout, hin]

section Start

variable (hout : l.lineOut = 0) (hin : l.lineIn = 0) {b : Byte} {rest : List Byte}

include hout hin

/-- The Prepare transition of a `Receive` phase, alone or with the first drive (R234). -/
theorem tick_prepareReceive (hphase : l.phase = .prepareReceive) (hqueue : l.queue = b :: rest) :
    l.tick p = if p.prepareFallthrough then (({ l with queue := rest } : Link).within .receive 0 0 8 5 b).tick p
      else .ok (({ l with queue := rest } : Link).within .receive 0 0 8 5 b) := by
  rw [within_released (l := { l with queue := rest }) hout hin]
  simp only [Link.tick, hphase, hqueue]
  rfl

/-- The last tick of the last bit of a received byte. -/
theorem tick_receiveLastBit (hphase : l.phase = .prepareReceive)
    (hl : let after : Link := { l with queue := rest, bits := 0, bitStep := 1, cur := 0 }
      (rest ≠ [] ∧ l' = after) ∨ (rest = [] ∧ ({ after with phase := .inactive } : Link).runContinuation p = .ok l')) :
    (({ l with queue := rest } : Link).within .receive 0 0 1 1 (b >>> 8)).tick p = .ok l' ∧
      l'.lineOut = 0 ∧ l'.lineIn = 0 := by
  have hshifted : b >>> 8 = 0 := BitVec.ushiftRight_eq_zero (Nat.le_refl 8)
  rw [hshifted]
  obtain ⟨hrest, rfl⟩ | ⟨hrest, hrun⟩ := hl
  · rw [tick_receiveNextByte hrest, within_released (l := { l with queue := rest }) hout hin, ← hphase]
    exact ⟨rfl, hout, hin⟩
  · have hcont := Link.runContinuation_continued rfl hrun
    rw [tick_receiveEnd hrest, within_released (l := { l with queue := rest }) hout hin]
    exact ⟨hrun, hcont.lineOut.trans hout, hcont.lineIn.trans hin⟩

/-- The last tick of the last bit of a sent byte. -/
theorem tick_sendLastBit (hphase : l.phase = .prepareSend)
    (hl : let after : Link := { l with queue := l.queue ++ [b], bits := 0, bitStep := 1, cur := b, toSend := l.toSend - 1 }
      (l.toSend ≠ 1 ∧ l' = after) ∨ (l.toSend = 1 ∧ ({ after with phase := .inactive } : Link).runContinuation p = .ok l')) :
    (l.within .send 0 0 1 1 b).tick p = .ok l' ∧ l'.lineOut = 0 ∧ l'.lineIn = 0 := by
  obtain ⟨hmore, rfl⟩ | ⟨hone, hrun⟩ := hl
  · have hleft : 0 < l.toSend - 1 := by bv_omega
    rw [tick_sendNextByte hleft, within_released (l := { l with queue := l.queue ++ [b], toSend := l.toSend - 1 }) hout hin,
      ← hphase]
    exact ⟨rfl, hout, hin⟩
  · have hcont := Link.runContinuation_continued rfl hrun
    have hleft : ¬ 0 < l.toSend - 1 := by rw [hone]; decide
    rw [tick_sendEnd hleft, within_released (l := { l with queue := l.queue ++ [b], toSend := l.toSend - 1 }) hout hin]
    exact ⟨hrun, hcont.lineOut.trans hout, hcont.lineIn.trans hin⟩

omit hout in
/-- The Prepare transition of a `Send` phase once a line is pulled, alone or with the first capture (R235). -/
theorem tick_prepareSend_pulled (hphase : l.phase = .prepareSend) {v : BitVec 2} (hv : v ≠ 0) :
    ({ l with lineOut := v } : Link).tick p = if p.prepareFallthrough then (l.within .send v 0 8 5 0).tick p
      else .ok (l.within .send v 0 8 5 0) := by
  have hpulled : ({ l with lineOut := v } : Link).combined ≠ 3 := by
    have h : ∀ v : BitVec 2, v ≠ 0 → (v ||| 0) ^^^ 3#2 ≠ 3 := by decide
    rw [Link.combined, hin]
    exact h v hv
  have hlink : l.within .send v 0 8 5 0 = ({ l with lineOut := v } : Link).prepareSend := by
    rw [Link.within, Link.prepareSend, hin]
  rw [hlink]
  exact Link.tick_prepareSend (l := { l with lineOut := v }) hphase hpulled

end Start

end Sys2Proof.Machine

namespace Sys2Proof.Safety

open Sys2Proof.Machine

/-- Settles O27: bit by bit, from the first drive, which the Prepare transition leads to, to the last count. -/
theorem receiveExchange : Obligations.ReceiveExchange := by
  intro s b rest l ⟨hout, hin, hlayout, hbank⟩ hphase hqueue hl
  obtain ⟨hlast, hout', hin'⟩ := tick_receiveLastBit hout hin hphase hl
  have hprepare := tick_prepareReceive (p := s.cfg) hout hin hphase hqueue
  have hsilent (hactive : s.link.active = false) :
      ReceivesBit s { s.link with queue := rest } receiveBit receiveReads :=
    fun _ _ _ _ _ _ hfirst => serveAll_receiveBit hlayout hbank hactive hfirst
  have hticking (hactive : s.link.active = true) (hpc : s.cfg.lowEnd ≤ s.cpu.pc) :
      ReceivesBit s { s.link with queue := rest } receiveBitTicking receiveReadsTicking :=
    fun _ _ _ _ _ _ hfirst => serveAll_receiveBitTicking hlayout hbank hactive hpc hfirst
  have hthrough {accesses reads} (hbit : ReceivesBit s { s.link with queue := rest } accesses reads)
      (hfall : s.cfg.prepareFallthrough = true) : serveAll ((bitsOf b).flatMap accesses) (s.exchanging s.delivered s.link) =
        .next (s.exchanging (s.delivered ++ (bitsOf b).flatMap reads) l) :=
    serveAll_receiveBits hbit (n := 7) (by rw [hprepare, if_pos hfall]) hlast hout' hin'
  have halone (hfall : s.cfg.prepareFallthrough = false) :
      s.link.tick s.cfg = .ok (({ s.link with queue := rest } : Link).within .receive 0 0 8 5 b) := by
    rw [hprepare, if_neg (by simp [hfall])]
  have hapart {accesses reads} (hbit : ReceivesBit s { s.link with queue := rest } accesses reads)
      (hfall : s.cfg.prepareFallthrough = false) :
      serveAll (.iord 0 :: (bitsOf b).flatMap accesses) (s.exchanging s.delivered s.link) =
        .next (s.exchanging (s.delivered ++ 0x0C :: (bitsOf b).flatMap reads) l) := by
    rw [serveAll_read hbank (halone hfall)]
    refine (serveAll_receiveBits hbit (n := 7) rfl hlast hout' hin').trans ?_
    show Host.Outcome.next (s.exchanging (s.delivered ++ [linesByte 0 0] ++ (bitsOf b).flatMap reads) l) = _
    rw [linesByte_released, List.append_assoc]
    rfl
  refine ⟨fun hactive hfall => hthrough (hsilent hactive) hfall,
    fun hactive hpc hfall => hthrough (hticking hactive hpc) hfall, fun hfall => ?_,
    fun hactive hfall => hapart (hsilent hactive) hfall, fun hactive hpc hfall => hapart (hticking hactive hpc) hfall,
    fun hc hrest => ?_⟩
  · refine (execIord0_exchanging (s := s) (d := s.delivered) hbank (halone hfall)).trans ?_
    show Host.Outcome.next (s.exchanging (s.delivered ++ [linesByte 0 0]) _) = _
    rw [linesByte_released, within_released (l := { s.link with queue := rest }) hout hin]
    rfl
  · obtain ⟨hne, -⟩ | ⟨-, hrun⟩ := hl
    · exact absurd hrest hne
    · simp only [Link.runContinuation, hc] at hrun
      cases hrun
      rw [hrest, ← hc]

/-- Settles O28: bit by bit, from the first capture, which the Prepare transition leads to, to the last count. -/
theorem sendExchange : Obligations.SendExchange := by
  refine ⟨fun s hphase hpulled hfall => ?_, fun s b l ⟨hout, hin, hlayout, hbank⟩ hphase hactive _ hl => ?_⟩
  · have htick : s.link.tick s.cfg = .ok s.link.prepareSend := by
      rw [Link.tick_prepareSend hphase hpulled, if_neg (by simp [hfall])]
    exact execIord0_eq htick
  obtain ⟨hlast, hout', hin'⟩ := tick_sendLastBit hout hin hphase hl
  have hnone : (b.setWidth 0).setWidth 8 = 0 := BitVec.eq_of_toNat_eq (by simp [Nat.mod_one])
  refine ⟨fun hfall => ?_, fun hfall => ?_, fun hc hone => ?_⟩
  · exact serveAll_sendBits hlayout hbank hactive (n := 7) (k := 0) rfl (m := s.link) (d := s.delivered) hactive
      (fun v hv => by rw [tick_prepareSend_pulled hin hphase hv, if_pos hfall, hnone]) hlast hout' hin'
  · have hline : sendLine (b.getLsbD 0) = 0#6 ++ (if b.getLsbD 0 then 2 else 1 : BitVec 2) := by
      cases b.getLsbD 0 <;> rfl
    have hpull : (if b.getLsbD 0 then 2 else 1 : BitVec 2) ≠ 0 := by cases b.getLsbD 0 <;> decide
    have hread : linesByte (if b.getLsbD 0 then 2 else 1) 0 = if b.getLsbD 0 then 0x06 else 0x09 := by
      cases b.getLsbD 0 <;> decide
    have halone := tick_prepareSend_pulled (p := s.cfg) hin hphase hpull
    rw [hfall, if_neg Bool.false_ne_true] at halone
    show serveAll _ (s.exchanging s.delivered s.link) = _
    rw [hline, serveAll_write hlayout hbank _ hactive, serveAll_read hbank halone]
    refine (serveAll_sendBits hlayout hbank (l := s.link) hactive (n := 7) (k := 0) rfl
      (m := s.link.within .send (if b.getLsbD 0 then 2 else 1) 0 8 5 0) hactive (fun v _ => by rw [hnone]; rfl) hlast hout'
      hin').trans ?_
    show Host.Outcome.next (s.exchanging (s.delivered ++ [linesByte (if b.getLsbD 0 then 2 else 1) 0] ++
      (bitsOf b).flatMap sendReads) l) = _
    rw [hread, List.append_assoc]
    rfl
  · obtain ⟨hne, -⟩ | ⟨-, hrun⟩ := hl
    · exact absurd hone hne
    · simp only [Link.runContinuation, hc] at hrun
      cases hrun
      rw [hone, ← hc]
      rfl

end Sys2Proof.Safety
end

section
/-! PROOFS. The loop of `LOAD_TEXT`, line by line (48_host_interface.md R304): the lines that a key takes, the lines of a CPU block,
the notices, and the markers without which a text is refused. -/

namespace Sys2Proof.Machine

open Sys2Proof.Safety

variable {s t : State} {p : Params} {e : Engine} {a b : LoadState} {mode : LoadMode} {lines rest : Text} {key value : Line}
  {snap : Snapshot}

/-! What a load answers. -/

theorem execLoadText_accepted (hhere : fromHere snap s = true)
    (h : loadLines s.cfg s.engine .before s.loadStart snap.text = some a) :
    execLoadText snap s = .next ((s.restore a.vals a.cpu).withReply (.notices a.notices)) := by
  rw [execLoadText, if_pos hhere, h]

theorem execLoadText_refused (hhere : fromHere snap s = true)
    (h : loadLines s.cfg s.engine .before s.loadStart snap.text = none) : execLoadText snap s = .refused .badSnapshot := by
  rw [execLoadText, if_pos hhere, h]

theorem execLoadText_elsewhere (hhere : fromHere snap s = false) : execLoadText snap s = .refused .otherInstance := by
  rw [execLoadText, if_neg (by simp [hhere])]

theorem execLoadText_next (h : execLoadText snap s = .next t) :
    fromHere snap s = true ∧ ∃ a, loadLines s.cfg s.engine .before s.loadStart snap.text = some a ∧
      t = (s.restore a.vals a.cpu).withReply (.notices a.notices) := by
  cases hhere : fromHere snap s with
  | false => rw [execLoadText_elsewhere hhere] at h; cases h
  | true =>
    refine ⟨rfl, ?_⟩
    cases hload : loadLines s.cfg s.engine .before s.loadStart snap.text with
    | none => rw [execLoadText_refused hhere hload] at h; cases h
    | some a =>
      rw [execLoadText_accepted hhere hload] at h
      cases h
      exact ⟨a, rfl, rfl⟩

/-! One line. -/

theorem loadLines_startMarker (a : LoadState) :
    loadLines p e .before a (startMarker p :: rest) = loadLines p e .fields a rest := if_pos rfl

theorem loadLines_endMarker (a : LoadState) : loadLines p e .fields a (endMarker p :: rest) = some a := if_pos rfl

theorem loadLines_openMark (h : e.openMark ≠ endMarker p) (a : LoadState) :
    loadLines p e .fields a (e.openMark :: rest) = loadLines p e (.inCpu []) a rest := by
  rw [loadLines]
  simp only [if_neg h, if_pos]

/-- A line with a space is a field line, where no mark holds one. -/
theorem loadLines_fieldLine {l : Line} (hl : spaceChar ∈ l) (hend : spaceChar ∉ endMarker p) (hopen : spaceChar ∉ e.openMark)
    (a : LoadState) :
    loadLines p e .fields a (l :: rest) = (loadField p a l).bind fun a' => loadLines p e .fields a' rest := by
  have hne : l ≠ endMarker p := fun h => hend (h ▸ hl)
  have hno : l ≠ e.openMark := fun h => hopen (h ▸ hl)
  rw [loadLines]
  simp only [if_neg hne, if_neg hno]
  cases loadField p a l <;> rfl

/-- The lines of a CPU block are gathered up to its closing mark. -/
theorem loadLines_block {block : Text} (h : e.closeMark ∉ block) (sofar : Text) (a : LoadState) :
    loadLines p e (.inCpu sofar) a (block ++ e.closeMark :: rest) =
      (loadCpu p e (sofar ++ block)).bind fun c => loadLines p e .fields { a with cpu := c } rest := by
  induction block generalizing sofar with
  | nil =>
    rw [List.nil_append, List.append_nil, loadLines]
    simp only [if_pos]
    cases loadCpu p e sofar <;> rfl
  | cons l block ih =>
    obtain ⟨hl, hblock⟩ := not_or.1 (mt List.mem_cons.2 h)
    rw [List.cons_append, loadLines]
    simp only [if_neg (Ne.symm hl)]
    rw [ih hblock, List.append_assoc]
    rfl

/-! A text without one of its markers. -/

theorem endMarker_mem_of_loadLines (h : loadLines p e mode a lines = some b) : endMarker p ∈ lines := by
  induction lines generalizing mode a with
  | nil => cases mode <;> cases h
  | cons l rest ih =>
    cases mode with
    | before =>
      rw [loadLines] at h
      split at h <;> exact List.mem_cons_of_mem _ (ih h)
    | fields =>
      rw [loadLines] at h
      split at h
      · rename_i hl; exact hl ▸ List.mem_cons_self
      split at h
      · exact List.mem_cons_of_mem _ (ih h)
      split at h
      · exact List.mem_cons_of_mem _ (ih h)
      · cases h
    | inCpu block =>
      rw [loadLines] at h
      split at h
      · split at h
        · exact List.mem_cons_of_mem _ (ih h)
        · cases h
      · exact List.mem_cons_of_mem _ (ih h)

theorem startMarker_mem_of_loadLines (h : loadLines p e .before a lines = some b) : startMarker p ∈ lines := by
  induction lines with
  | nil => cases h
  | cons l rest ih =>
    rw [loadLines] at h
    split at h
    · rename_i hl; exact hl ▸ List.mem_cons_self
    · exact List.mem_cons_of_mem _ (ih h)

/-! The keys. -/

theorem splitLine_append (h : spaceChar ∉ key) : splitLine (key ++ spaceChar :: value) = (key, value) := by
  have hkey : ∀ c ∈ key, (c != spaceChar) = true := fun c hc => bne_iff_ne.2 fun heq => h (heq ▸ hc)
  rw [splitLine, List.takeWhile_append_of_pos hkey, List.dropWhile_append_of_pos hkey]
  simp

theorem keyIndex_of_not_mem {keys : List Line} (h : key ∉ keys) : keyIndex keys key = none := by
  induction keys with
  | nil => rfl
  | cons k keys ih =>
    obtain ⟨hk, hkeys⟩ := not_or.1 (mt List.mem_cons.2 h)
    rw [keyIndex, if_neg (Ne.symm hk), ih hkeys]
    rfl

theorem keyIndex_of_getElem? {keys : List Line} (hnodup : keys.Nodup) {i : Nat} (h : keys[i]? = some key) :
    keyIndex keys key = some i := by
  induction keys generalizing i with
  | nil => cases h
  | cons k keys ih =>
    obtain ⟨hk, hkeys⟩ := List.nodup_cons.1 hnodup
    cases i with
    | zero => cases h; exact if_pos rfl
    | succ i =>
      have hmem : keys[i]? = some key := h
      have hne : k ≠ key := fun heq => hk (heq ▸ List.mem_of_getElem? hmem)
      rw [keyIndex, if_neg hne, ih hkeys hmem]
      rfl

theorem loadField_unknown (hkey : spaceChar ∉ key) (h : key ∉ p.textKeys) (a : LoadState) :
    loadField p a (key ++ spaceChar :: value) = some { a with notices := a.notices ++ [key] } := by
  rw [loadField, splitLine_append hkey, keyIndex_of_not_mem h]

theorem loadField_known (hnames : TextNamesOk p) {i : Nat} {type : SnapType} (hi : p.textKeys[i]? = some key)
    (ht : (snapTypes p)[i]? = some type) (a : LoadState) :
    loadField p a (key ++ spaceChar :: value) =
      (parseVal type value).map fun v => { a with vals := a.vals.set i (some v) } := by
  have hkey : spaceChar ∉ key := hnames.noSpace key (List.mem_of_getElem? hi)
  rw [loadField, splitLine_append hkey, keyIndex_of_getElem? hnames.noRepeats hi]
  simp only [ht]

/-! The notices: those there are stay in front, and nothing else depends on them. -/

/-- What was gathered after the notices `ns`. -/
def LoadState.after (ns : List Line) (a : LoadState) : LoadState := { a with notices := ns ++ a.notices }

theorem loadField_after (ns : List Line) (a : LoadState) (l : Line) :
    loadField p (a.after ns) l = (loadField p a l).map (.after ns) := by
  unfold loadField
  split
  · exact congrArg some (congrArg (LoadState.mk a.vals a.cpu) (List.append_assoc ..))
  · split
    · exact congrArg some (congrArg (LoadState.mk a.vals a.cpu) (List.append_assoc ..))
    · rw [Option.map_map]; rfl

theorem loadLines_after (ns : List Line) (mode : LoadMode) (a : LoadState) (lines : Text) :
    loadLines p e mode (a.after ns) lines = (loadLines p e mode a lines).map (.after ns) := by
  induction lines generalizing mode a with
  | nil => cases mode <;> rfl
  | cons l rest ih =>
    cases mode with
    | before =>
      rw [loadLines, loadLines]
      split <;> exact ih _ a
    | fields =>
      rw [loadLines, loadLines]
      split
      · rfl
      split
      · exact ih _ a
      · rw [loadField_after]
        cases loadField p a l with
        | none => rfl
        | some a' => exact ih _ a'
    | inCpu block =>
      rw [loadLines, loadLines]
      split
      · cases loadCpu p e block with
        | none => rfl
        | some c => exact ih _ { a with cpu := c }
      · exact ih _ a

end Sys2Proof.Machine

namespace Sys2Proof.Safety

open Sys2Proof.Machine

/-- Settles O56: what stands before the line is read on its own, the line adds its notice, and the rest of the load depends on no
notice. -/
theorem unknownKeysAreSkipped : Obligations.UnknownKeysAreSkipped := by
  intro s t key value front rest origin ns hkey hunknown hend hopen hfront load hload hreply
  obtain ⟨hhere, b, hb, rfl⟩ := execLoadText_next hload
  cases hreply
  obtain ⟨r, hr, -⟩ := loadLines_between s.cfg s.engine front .fields s.loadStart false nofun (by simp) hfront
  rw [loadLines_startMarker, hr] at hb
  obtain ⟨a, rfl, hrest⟩ := Option.bind_eq_some_iff.1 hb
  have hsplit : a = LoadState.after a.notices { a with notices := [] } :=
    congrArg (LoadState.mk a.vals a.cpu) (List.append_nil a.notices).symm
  have hsplit' : ({ a with notices := a.notices ++ [key] } : LoadState) =
      LoadState.after (a.notices ++ [key]) { a with notices := [] } :=
    congrArg (LoadState.mk a.vals a.cpu) (List.append_nil _).symm
  rw [hsplit, loadLines_after] at hrest
  obtain ⟨c, hc, rfl⟩ := Option.map_eq_some_iff.1 hrest
  refine ⟨_, a.notices, c.notices, execLoadText_accepted hhere (a := a) ?_, rfl, rfl, ?_⟩
  · rw [loadLines_startMarker, hr]
    exact loadLines_endMarker a
  · have hmore : loadLines s.cfg s.engine .before s.loadStart
        (startMarker s.cfg :: (front ++ (key ++ spaceChar :: value) :: rest)) = some (c.after (a.notices ++ [key])) := by
      rw [loadLines_startMarker, hr, Option.bind_some, loadLines_fieldLine (by simp) hend hopen,
        loadField_unknown hkey hunknown, Option.bind_some, hsplit', loadLines_after, hc]
      rfl
    have hnotices : (c.after (a.notices ++ [key])).notices = a.notices ++ key :: c.notices := List.append_assoc ..
    refine (execLoadText_accepted (snap := ⟨startMarker s.cfg :: (front ++ (key ++ spaceChar :: value) :: rest), origin⟩)
      hhere hmore).trans ?_
    rw [hnotices]
    rfl

end Sys2Proof.Safety
end

section
/-! PROOFS. The fields of a text: what a loaded value makes of the field it is for (48_host_interface.md R304), and a whole saved
text read back (R305). -/

namespace Sys2Proof.Machine

open Sys2Proof.Safety

variable {s : State} {p : Params} {vs : List (Option SnapVal)} {v : SnapVal} {i : Nat}

/-! The values of a type. -/

theorem SnapVal.fits_num (h : v.fits .num = true) : ∃ n, v = .num n := by
  cases v with
  | num n => exact ⟨n, rfl⟩
  | flag | buf => cases h

theorem SnapVal.fits_below {bound : Nat} (h : v.fits (.below bound) = true) : ∃ n, v = .num n ∧ n < bound := by
  cases v with
  | num n => exact ⟨n, rfl, of_decide_eq_true h⟩
  | flag | buf => cases h

theorem SnapVal.fits_flag (h : v.fits .flag = true) : ∃ b, v = .flag b := by
  cases v with
  | flag b => exact ⟨b, rfl⟩
  | num | buf => cases h

theorem SnapVal.fits_zeroFlag (h : v.fits .zeroFlag = true) : v = .flag false := by
  cases v with
  | flag b =>
    cases b with
    | false => rfl
    | true => cases h
  | num | buf => cases h

theorem SnapVal.fits_buf (h : v.fits .buf = true) : ∃ bs, v = .buf bs := by
  cases v with
  | buf bs => exact ⟨bs, rfl⟩
  | num | flag => cases h

theorem SnapVal.fits_bufOf {len : Nat} (h : v.fits (.bufOf len) = true) : ∃ bs, v = .buf bs ∧ bs.length = len := by
  cases v with
  | buf bs => exact ⟨bs, rfl, of_decide_eq_true h⟩
  | num | flag => cases h

/-! What does not parse. -/

theorem parseVal_below_none {bound n : Nat} (h : bound ≤ n) : parseVal (.below bound) (printDec n) = none := by
  have hraw : parseRaw (.below bound) (printDec n) = some (.num n) := by rw [parseRaw, parseDec_printDec]; rfl
  rw [parseVal, hraw, Option.filter_some, if_neg]
  simpa [SnapVal.fits] using h

theorem parseVal_bufOf_none {len : Nat} {bs : List Byte} (h : bs.length ≠ len) :
    parseVal (.bufOf len) (printHex bs) = none := by
  have hraw : parseRaw (.bufOf len) (printHex bs) = some (.buf bs) := by rw [parseRaw, parseHex_printHex]; rfl
  rw [parseVal, hraw, Option.filter_some, if_neg]
  simpa [SnapVal.fits] using h

theorem parseVal_flag_none {value : Line} (htrue : value ≠ trueLine) (hfalse : value ≠ falseLine) :
    parseVal .flag value = none := by
  rw [parseVal, parseRaw, parseFlag, if_neg htrue, if_neg hfalse]
  rfl

/-! Bytes and ordinals read back. -/

theorem toBytesFrom_ofBytesFrom (d : Byte) (bs : List Byte) (i : Nat) :
    Memory.toBytesFrom d (Memory.ofBytesFrom d i bs) i bs.length = bs := by
  induction bs generalizing i with
  | nil => rfl
  | cons b bs ih =>
    rw [List.length_cons, Memory.toBytesFrom, Memory.ofBytesFrom]
    by_cases hb : b = d
    · rw [if_pos hb, ih, Memory.read_of_lt (Memory.wfFrom_ofBytesFrom (i + 1) bs) (Nat.lt_succ_self i), hb]
    · rw [if_neg hb, Memory.toBytesFrom_cons (Nat.lt_succ_self i), ih, Memory.read, if_pos rfl]

theorem phaseOrdinal_phaseOfOrdinal {n : Nat} (h : n < 5) (keep : LinkPhase) :
    phaseOrdinal ((phaseOfOrdinal n).getD keep) = n := by
  have hall : ∀ n : Fin 5, ∃ ph, phaseOfOrdinal n = some ph ∧ phaseOrdinal ph = n := by decide
  obtain ⟨ph, hph, hn⟩ := hall ⟨n, h⟩
  simp only at hph hn
  rw [hph, Option.getD_some, hn]

theorem exists_contOfOrdinal {n : Nat} (h : n < 7) : ∃ c, contOfOrdinal n = some c ∧ contOrdinal c = n := by
  have hall : ∀ n : Fin 7, ∃ c, contOfOrdinal n = some c ∧ contOrdinal c = n := by decide
  exact hall ⟨n, h⟩

/-! What is loaded, entry by entry. -/

/-- Every value given fits its field. -/
def ValsFit (p : Params) (vs : List (Option SnapVal)) : Prop :=
  ∀ (i : Nat) (v : SnapVal), vs[i]? = some (some v) → ∃ type, (snapTypes p)[i]? = some type ∧ v.fits type = true

/-- The value of entry `i`: the one given, or else the old one. -/
def entry (vs : List (Option SnapVal)) (i : Nat) (old : SnapVal) : SnapVal :=
  match vs[i]? with
  | some (some v) => v
  | _ => old

section Entries

variable (hvs : ValsFit p vs)

include hvs

/-- Where nothing is given the old value stands, and what is given is of the field's type. -/
theorem ValsFit.eq_entry {type : SnapType} (htype : (snapTypes p)[i]? = some type) {old new : SnapVal}
    (habsent : vs[i]? = none ∨ vs[i]? = some none → new = old)
    (hgiven : ∀ v, vs[i]? = some (some v) → v.fits type = true → new = v) : new = entry vs i old := by
  unfold entry
  match h : vs[i]? with
  | none => exact habsent (.inl h)
  | some none => exact habsent (.inr h)
  | some (some v) =>
    obtain ⟨type', htype', hfits⟩ := hvs i v h
    cases htype.symm.trans htype'
    exact hgiven v h hfits

theorem ValsFit.num_entry (htype : (snapTypes p)[i]? = some .num) (keep : Nat) :
    SnapVal.num (numOr vs i keep) = entry vs i (.num keep) := by
  refine hvs.eq_entry htype (by rintro (h | h) <;> rw [numOr, h]) fun v h hfits => ?_
  obtain ⟨n, rfl⟩ := SnapVal.fits_num hfits
  rw [numOr, h]

theorem ValsFit.below_entry {bound : Nat} (htype : (snapTypes p)[i]? = some (.below bound)) (keep : Nat) :
    SnapVal.num (numOr vs i keep) = entry vs i (.num keep) := by
  refine hvs.eq_entry htype (by rintro (h | h) <;> rw [numOr, h]) fun v h hfits => ?_
  obtain ⟨n, rfl, -⟩ := SnapVal.fits_below hfits
  rw [numOr, h]

theorem ValsFit.bits_entry {w : Nat} (htype : (snapTypes p)[i]? = some (.below (2 ^ w))) (keep : BitVec w) :
    SnapVal.num (bitsOr vs i keep).toNat = entry vs i (.num keep.toNat) := by
  refine hvs.eq_entry htype (by rintro (h | h) <;> rw [bitsOr, h]) fun v h hfits => ?_
  obtain ⟨n, rfl, hn⟩ := SnapVal.fits_below hfits
  rw [bitsOr, h]
  exact congrArg SnapVal.num (Nat.mod_eq_of_lt hn)

theorem ValsFit.flag_entry (htype : (snapTypes p)[i]? = some .flag) (keep : Bool) :
    SnapVal.flag (flagOr vs i keep) = entry vs i (.flag keep) := by
  refine hvs.eq_entry htype (by rintro (h | h) <;> rw [flagOr, h]) fun v h hfits => ?_
  obtain ⟨b, rfl⟩ := SnapVal.fits_flag hfits
  rw [flagOr, h]

theorem ValsFit.zeroFlag_entry (htype : (snapTypes p)[i]? = some .zeroFlag) (keep : Bool) :
    SnapVal.flag (flagOr vs i keep) = entry vs i (.flag keep) := by
  refine hvs.eq_entry htype (by rintro (h | h) <;> rw [flagOr, h]) fun v h hfits => ?_
  obtain rfl := SnapVal.fits_zeroFlag hfits
  rw [flagOr, h]

theorem ValsFit.buf_entry (htype : (snapTypes p)[i]? = some .buf) (keep : List Byte) :
    SnapVal.buf (bufOr vs i keep) = entry vs i (.buf keep) := by
  refine hvs.eq_entry htype (by rintro (h | h) <;> rw [bufOr, h]) fun v h hfits => ?_
  obtain ⟨bs, rfl⟩ := SnapVal.fits_buf hfits
  rw [bufOr, h]

theorem ValsFit.memory_entry {len : Nat} (htype : (snapTypes p)[i]? = some (.bufOf len)) (d : Byte) (keep : Memory) :
    SnapVal.buf (Memory.toBytesFrom d (memoryOr vs i d keep) 0 len) = entry vs i (.buf (Memory.toBytesFrom d keep 0 len)) := by
  refine hvs.eq_entry htype (by rintro (h | h) <;> rw [memoryOr, h]) fun v h hfits => ?_
  obtain ⟨bs, rfl, rfl⟩ := SnapVal.fits_bufOf hfits
  rw [memoryOr, h]
  exact congrArg SnapVal.buf (toBytesFrom_ofBytesFrom d bs 0)

theorem ValsFit.phase_entry (htype : (snapTypes p)[i]? = some (.below 5)) (keep : LinkPhase) :
    SnapVal.num (phaseOrdinal (phaseOr vs i keep)) = entry vs i (.num (phaseOrdinal keep)) := by
  refine hvs.eq_entry htype (by rintro (h | h) <;> rw [phaseOr, h]) fun v h hfits => ?_
  obtain ⟨n, rfl, hn⟩ := SnapVal.fits_below hfits
  rw [phaseOr, h]
  exact congrArg SnapVal.num (phaseOrdinal_phaseOfOrdinal hn keep)

theorem ValsFit.cont_entry (htype : (snapTypes p)[i]? = some (.below 7)) (keep : Continuation) :
    SnapVal.num (contOrdinal (contOr vs i keep)) = entry vs i (.num (contOrdinal keep)) := by
  refine hvs.eq_entry htype (by rintro (h | h) <;> rw [contOr, h]) fun v h hfits => ?_
  obtain ⟨n, rfl, hn⟩ := SnapVal.fits_below hfits
  obtain ⟨c, hc, hcn⟩ := exists_contOfOrdinal hn
  rw [contOr, h]
  simp only [hc, Option.getD_some, hcn]

end Entries

theorem entry_absent {old : SnapVal} (h : vs[i]? = some none) : entry vs i old = old := by rw [entry, h]

/-- The file stays as it is where none of its three fields is given. -/
theorem restoreFile_absent (h24 : vs[24]? = some none) (h25 : vs[25]? = some none) (h26 : vs[26]? = some none) (l : Link) :
    restoreFile vs l = l.file := by
  rw [restoreFile, flagOr, bufOr, numOr, h24, h25, h26]
  simp only [Link.fileBytes, Link.filePos]
  cases l.file <;> rfl

/-- After a load the snapshot holds the values given, and else the old ones; of the file, where its fields are not given. -/
theorem snapshot_restore (hvs : ValsFit s.cfg vs) (cpu : Cpu) (h24 : vs[24]? = some none) (h25 : vs[25]? = some none)
    (h26 : vs[26]? = some none) (k : Nat) :
    (s.restore vs cpu).snapshot[k]? = s.snapshot[k]?.map (entry vs k) := by
  have hfile := restoreFile_absent h24 h25 h26 s.link
  match k with
  | 0 => exact congrArg some (hvs.flag_entry (i := 0) rfl _)
  | 1 => exact congrArg some (hvs.zeroFlag_entry (i := 1) rfl _)
  | 2 => exact congrArg some (hvs.memory_entry (i := 2) rfl _ _)
  | 3 => exact congrArg some (hvs.memory_entry (i := 3) rfl _ _)
  | 4 => exact congrArg some (hvs.below_entry (i := 4) rfl _)
  | 5 => exact congrArg some (hvs.bits_entry (i := 5) rfl _)
  | 6 => exact congrArg some (hvs.bits_entry (i := 6) rfl _)
  | 7 => exact congrArg some (hvs.bits_entry (i := 7) rfl _)
  | 8 => exact congrArg some (hvs.bits_entry (i := 8) rfl _)
  | 9 => exact congrArg some (hvs.bits_entry (i := 9) rfl _)
  | 10 => exact congrArg some (hvs.flag_entry (i := 10) rfl _)
  | 11 => exact congrArg some (hvs.bits_entry (i := 11) rfl _)
  | 12 => exact congrArg some (hvs.flag_entry (i := 12) rfl _)
  | 13 => exact congrArg some (hvs.flag_entry (i := 13) rfl _)
  | 14 => exact congrArg some (hvs.bits_entry (i := 14) rfl _)
  | 15 => exact congrArg some (hvs.bits_entry (i := 15) rfl _)
  | 16 => exact congrArg some (hvs.flag_entry (i := 16) rfl _)
  | 17 => exact congrArg some (hvs.phase_entry (i := 17) rfl _)
  | 18 => exact congrArg some (hvs.buf_entry (i := 18) rfl _)
  | 19 => exact congrArg some (hvs.below_entry (i := 19) rfl _)
  | 20 => exact congrArg some (hvs.below_entry (i := 20) rfl _)
  | 21 => exact congrArg some (hvs.bits_entry (i := 21) rfl _)
  | 22 => exact congrArg some (hvs.bits_entry (i := 22) rfl _)
  | 23 => exact congrArg some (hvs.cont_entry (i := 23) rfl _)
  | 24 =>
    rw [show s.snapshot[24]? = some (.flag s.link.file.isSome) from rfl, Option.map_some, entry_absent h24, ← hfile]
    rfl
  | 25 =>
    rw [show s.snapshot[25]? = some (.buf ((s.link.file.map OpenFile.bytes).getD [])) from rfl, Option.map_some,
      entry_absent h25, ← hfile]
    rfl
  | 26 =>
    rw [show s.snapshot[26]? = some (.num ((s.link.file.map OpenFile.pos).getD 0)) from rfl, Option.map_some,
      entry_absent h26, ← hfile]
    rfl
  | 27 => exact congrArg some (hvs.buf_entry (i := 27) rfl _)
  | 28 => exact congrArg some (hvs.buf_entry (i := 28) rfl _)
  | 29 => exact congrArg some (hvs.num_entry (i := 29) rfl _)
  | 30 => exact congrArg some (hvs.num_entry (i := 30) rfl _)
  | 31 => exact congrArg some (hvs.flag_entry (i := 31) rfl _)
  | 32 => exact congrArg some (hvs.flag_entry (i := 32) rfl _)
  | k + 33 => rfl

/-! One value. -/

/-- What a text that gives the value `v` for field `i` has gathered. -/
def single (p : Params) (i : Nat) (v : SnapVal) : List (Option SnapVal) :=
  (List.replicate (snapTypes p).length none).set i (some v)

theorem single_of_ne {k : Nat} (h : i ≠ k) (hk : k < 33) : (single p i v)[k]? = some none := by
  rw [single, List.getElem?_set_ne h, List.getElem?_replicate]
  exact if_pos hk

theorem single_self (hi : i < 33) : (single p i v)[i]? = some (some v) :=
  List.getElem?_set_self (by rw [List.length_replicate]; exact hi)

theorem single_fits {type : SnapType} (htype : (snapTypes p)[i]? = some type) (hv : v.fits type = true) :
    ValsFit p (single p i v) := by
  intro k w hw
  rw [single, List.getElem?_set] at hw
  split at hw
  · rename_i hik
    split at hw
    · cases hw; exact ⟨type, hik ▸ htype, hv⟩
    · cases hw
  · rw [List.getElem?_replicate] at hw
    split at hw <;> cases hw

theorem index_lt {type : SnapType} (htype : (snapTypes p)[i]? = some type) : i < 33 :=
  (List.getElem?_eq_some_iff.1 htype).1

/-- A value given for a field that is none of the file's replaces its entry and no other. -/
theorem snapshot_restore_single {type : SnapType} (htype : (snapTypes s.cfg)[i]? = some type) (hv : v.fits type = true)
    (cpu : Cpu) (h24 : i ≠ 24) (h25 : i ≠ 25) (h26 : i ≠ 26) :
    (s.restore (single s.cfg i v) cpu).snapshot = s.snapshot.set i v := by
  have hi : i < 33 := index_lt htype
  refine List.ext_getElem? fun k => ?_
  rw [snapshot_restore (single_fits htype hv) cpu (single_of_ne h24 (by decide)) (single_of_ne h25 (by decide))
    (single_of_ne h26 (by decide)), List.getElem?_set]
  by_cases hik : i = k
  · subst hik
    have hlen : i < s.snapshot.length := hi
    rw [if_pos rfl, if_pos hlen, List.getElem?_eq_getElem hlen, Option.map_some, entry, single_self hi]
  · rw [if_neg hik]
    by_cases hk : k < 33
    · rw [Option.map_congr fun old _ => entry_absent (old := old) (single_of_ne hik hk)]
      exact Option.map_id'
    · rw [List.getElem?_eq_none (Nat.not_lt.1 hk)]
      rfl

/-- A load that gives none of the file's fields, with the file written as it is. -/
theorem restore_keeps_file (h24 : vs[24]? = some none) (h25 : vs[25]? = some none) (h26 : vs[26]? = some none) (cpu : Cpu) :
    s.restore vs cpu = { s.restore vs cpu with link := { restoreLink vs s.link with file := s.link.file } } :=
  congrArg (fun f => ({ s.restore vs cpu with link := { restoreLink vs s.link with file := f } } : State))
    (restoreFile_absent h24 h25 h26 s.link)

/-- A load that gives no value. -/
theorem restore_nothing (cpu : Cpu) : s.restore s.loadStart.vals cpu = { s with cpu := cpu } :=
  restore_keeps_file rfl rfl rfl cpu

theorem restore_single (hne : i ≠ 24 ∧ i ≠ 25 ∧ i ≠ 26) (cpu : Cpu) : s.restore (single p i v) cpu =
    { s.restore (single p i v) cpu with link := { restoreLink (single p i v) s.link with file := s.link.file } } :=
  restore_keeps_file (single_of_ne hne.1 (by decide)) (single_of_ne hne.2.1 (by decide)) (single_of_ne hne.2.2 (by decide)) cpu

theorem memoryOr_absent {d : Byte} {keep : Memory} (h : vs[i]? = some none) : memoryOr vs i d keep = keep := by
  rw [memoryOr, h]

/-- The bytes of the file alone, or its position alone (entry 43). -/
theorem restoreFile_bytes (bs : List Byte) (l : Link) :
    restoreFile (single p 25 (.buf bs)) l = l.file.map fun f => { f with bytes := bs } := by
  unfold restoreFile
  rw [flagOr, bufOr, numOr, single_of_ne (by decide) (by decide), single_self (by decide),
    single_of_ne (by decide) (by decide)]
  simp only [Link.filePos]
  cases l.file <;> rfl

theorem restoreFile_pos (n : Nat) (l : Link) :
    restoreFile (single p 26 (.num n)) l = l.file.map fun f => { f with pos := n } := by
  unfold restoreFile
  rw [flagOr, bufOr, numOr, single_of_ne (by decide) (by decide), single_of_ne (by decide) (by decide),
    single_self (by decide)]
  simp only [Link.fileBytes]
  cases l.file <;> rfl

section OneLine

variable {key value : Line} {type : SnapType} {origin : Option Origin} (hhere : ∀ lines, fromHere { text := lines, origin := origin } s = true)
  (hnames : TextNamesOk s.cfg) (hopen : spaceChar ∉ s.engine.openMark)

include hhere

theorem load_refused {lines : Text} (h : loadLines s.cfg s.engine .before s.loadStart lines = none) :
    execLoadText { text := lines, origin := origin } s = .refused .badSnapshot :=
  execLoadText_refused (hhere lines) h

theorem load_without_end {lines : Text} (h : endMarker s.cfg ∉ lines) :
    execLoadText { text := startMarker s.cfg :: lines, origin := origin } s = .refused .badSnapshot := by
  refine load_refused hhere (Option.eq_none_iff_forall_ne_some.2 fun a ha => h ?_)
  rw [loadLines_startMarker] at ha
  exact endMarker_mem_of_loadLines ha

theorem load_without_start {lines : Text} (h : startMarker s.cfg ∉ lines) :
    execLoadText { text := lines, origin := origin } s = .refused .badSnapshot :=
  load_refused hhere (Option.eq_none_iff_forall_ne_some.2 fun _ ha => h (startMarker_mem_of_loadLines ha))

/-- The CPU block alone. -/
theorem load_block {block : Text} (hmark : s.engine.openMark ≠ endMarker s.cfg) (hclose : s.engine.closeMark ∉ block) :
    let result := execLoadText { text := startMarker s.cfg :: s.engine.openMark :: block ++ [s.engine.closeMark, endMarker s.cfg],
                                 origin := origin } s
    (∀ c, loadCpu s.cfg s.engine block = some c → result = .next { s with cpu := c, reply := .notices [] }) ∧
      (loadCpu s.cfg s.engine block = none → result = .refused .badSnapshot) := by
  have hload : loadLines s.cfg s.engine .before s.loadStart
      (startMarker s.cfg :: s.engine.openMark :: block ++ [s.engine.closeMark, endMarker s.cfg]) =
      (loadCpu s.cfg s.engine block).bind fun c => some { s.loadStart with cpu := c } := by
    rw [List.cons_append, List.cons_append, loadLines_startMarker, loadLines_openMark hmark, loadLines_block hclose]
    simp only [loadLines_endMarker, List.nil_append]
  refine ⟨fun c hc => ?_, fun hc => load_refused hhere (by rw [hload, hc]; rfl)⟩
  refine (execLoadText_accepted (hhere _) (a := { s.loadStart with cpu := c }) (by rw [hload, hc]; rfl)).trans ?_
  rw [restore_nothing]
  rfl

include hnames hopen

section Field

variable (hkey : s.cfg.textKeys[i]? = some key) (htype : (snapTypes s.cfg)[i]? = some type)

include hkey htype

/-- A text of one field line whose value fits. -/
theorem load_one (hv : parseVal type value = some v) :
    execLoadText { text := [startMarker s.cfg, key ++ spaceChar :: value, endMarker s.cfg], origin := origin } s =
      .next ((s.restore (single s.cfg i v) s.cpu).withReply (.notices [])) := by
  refine execLoadText_accepted (hhere _) (a := { vals := single s.cfg i v, cpu := s.cpu, notices := [] }) ?_
  rw [loadLines_startMarker, loadLines_fieldLine (by simp) hnames.marker hopen, loadField_known hnames hkey htype, hv,
    Option.map_some, Option.bind_some, loadLines_endMarker]
  rfl

/-- The same of a field that is none of the file's. -/
theorem load_set (hne : i ≠ 24 ∧ i ≠ 25 ∧ i ≠ 26) (hv : parseVal type value = some v) :
    execLoadText { text := [startMarker s.cfg, key ++ spaceChar :: value, endMarker s.cfg], origin := origin } s =
      .next { s.restore (single s.cfg i v) s.cpu with
        link := { restoreLink (single s.cfg i v) s.link with file := s.link.file }, reply := .notices [] } := by
  rw [load_one hhere hnames hopen hkey htype hv, restore_single hne]
  rfl

/-- A text whose first field line has a value that does not fit. -/
theorem load_unfit (hv : parseVal type value = none) (rest : Text) :
    execLoadText { text := startMarker s.cfg :: (key ++ spaceChar :: value) :: rest, origin := origin } s =
      .refused .badSnapshot := by
  refine load_refused hhere ?_
  rw [loadLines_startMarker, loadLines_fieldLine (by simp) hnames.marker hopen, loadField_known hnames hkey htype, hv]
  rfl

end Field

/-- The display column. -/
theorem load_column (hkey : s.cfg.textKeys[8]? = some key) {n : Nat} (hn : n < 32) :
    execLoadText { text := [startMarker s.cfg, key ++ spaceChar :: printDec n, endMarker s.cfg], origin := origin } s =
      .next { s with disp := { s.disp with x := BitVec.ofNat 5 n }, reply := .notices [] } :=
  load_set hhere hnames hopen hkey rfl (by decide) (parseVal_printVal (.below 32) (.num n) (decide_eq_true hn))

theorem load_ram (hkey : s.cfg.textKeys[2]? = some key) {bs : List Byte} (hlen : bs.length = s.cfg.ramSize) :
    execLoadText { text := [startMarker s.cfg, key ++ spaceChar :: printHex bs, endMarker s.cfg], origin := origin } s =
      .next { s with ram := Memory.ofBytesFrom ramFill 0 bs, reply := .notices [] } :=
  load_set hhere hnames hopen hkey rfl (by decide) (parseVal_printVal (.bufOf s.cfg.ramSize) (.buf bs) (decide_eq_true hlen))

theorem load_vram (hkey : s.cfg.textKeys[3]? = some key) {bs : List Byte} (hlen : bs.length = 768) :
    execLoadText { text := [startMarker s.cfg, key ++ spaceChar :: printHex bs, endMarker s.cfg], origin := origin } s =
      .next { s with vram := Memory.ofBytesFrom vramFill 0 bs, reply := .notices [] } :=
  load_set hhere hnames hopen hkey rfl (by decide) (parseVal_printVal (.bufOf 768) (.buf bs) (decide_eq_true hlen))

theorem load_irqLine (hkey : s.cfg.textKeys[0]? = some key) (b : Bool) :
    execLoadText { text := [startMarker s.cfg, key ++ spaceChar :: printVal (.flag b), endMarker s.cfg], origin := origin } s =
      .next { s with irqLine := b, reply := .notices [] } :=
  load_set hhere hnames hopen hkey rfl (by decide) (parseVal_printVal .flag (.flag b) rfl)

theorem load_nmiLine (hkey : s.cfg.textKeys[1]? = some key) :
    execLoadText { text := [startMarker s.cfg, key ++ spaceChar :: falseLine, endMarker s.cfg], origin := origin } s =
      .next { s with nmiLine := false, reply := .notices [] } :=
  load_set hhere hnames hopen hkey rfl (by decide) (parseVal_printVal .zeroFlag (.flag false) rfl)

theorem load_cont (hkey : s.cfg.textKeys[23]? = some key) {n : Nat} (hn : n < 7) :
    ∃ c, execLoadText { text := [startMarker s.cfg, key ++ spaceChar :: printDec n, endMarker s.cfg], origin := origin } s =
      .next { s with link := { s.link with cont := c }, reply := .notices [] } ∧ contOrdinal c = n := by
  obtain ⟨c, hc, hcn⟩ := exists_contOfOrdinal hn
  have hcont : contOr (single s.cfg 23 (.num n)) 23 s.link.cont = c := by
    rw [contOr, single_self (by decide)]
    simp only [hc, Option.getD_some]
  refine ⟨c, ?_, hcn⟩
  refine (load_set hhere hnames hopen hkey rfl (by decide)
    (parseVal_printVal (.below 7) (.num n) (decide_eq_true hn))).trans ?_
  exact congrArg (fun c => Host.Outcome.next ({ s with link := { s.link with cont := c }, reply := .notices [] } : State))
    hcont

end OneLine

/-- Whether a file is open, alone (entry 43). -/
theorem restore_single_open (b : Bool) (cpu : Cpu) : s.restore (single p 24 (.flag b)) cpu = { s with
    cpu := cpu
    link := { s.link with
      file := if SnapVal.flag b = .flag true then some { bytes := s.link.fileBytes, pos := s.link.filePos } else none } } := by
  cases b <;> rfl

theorem restore_single_bytes (bs : List Byte) (cpu : Cpu) : s.restore (single p 25 (.buf bs)) cpu = { s with
    cpu := cpu
    link := { s.link with file := s.link.file.map fun f => { f with bytes := bs } } } :=
  congrArg (fun f => ({ s with cpu := cpu, link := { s.link with file := f } } : State)) (restoreFile_bytes bs s.link)

theorem restore_single_pos (n : Nat) (cpu : Cpu) : s.restore (single p 26 (.num n)) cpu = { s with
    cpu := cpu
    link := { s.link with file := s.link.file.map fun f => { f with pos := n } } } :=
  congrArg (fun f => ({ s with cpu := cpu, link := { s.link with file := f } } : State)) (restoreFile_pos n s.link)

end Sys2Proof.Machine

namespace Sys2Proof.Safety

open Sys2Proof.Machine

/-- Settles O55: one field line sets one value, which is restored to its field alone; a line that does not fit, a block that the
engine rejects and a missing marker end the load. -/
theorem loadTextOfOneField : Obligations.LoadTextOfOneField := by
  intro s key origin hnames hopen horigin load one
  have hhere (lines : Text) : fromHere { text := lines, origin := origin } s = true := by
    obtain rfl | rfl := horigin
    · rfl
    · exact decide_eq_true rfl
  have hunfit {i type value} (hkey : s.cfg.textKeys[i]? = some key) (htype : (snapTypes s.cfg)[i]? = some type)
      (hv : parseVal type value = none) (rest : Text) :
      load (startMarker s.cfg :: (key ++ spaceChar :: value) :: rest) = .refused .badSnapshot :=
    load_unfit hhere hnames hopen hkey htype hv rest
  refine ⟨fun i type hkey htype => ⟨fun v hv => ⟨_, load_one hhere hnames hopen hkey htype (parseVal_printVal type v hv), rfl,
    fun h2 => memoryOr_absent (single_of_ne h2 (by decide)), fun h3 => memoryOr_absent (single_of_ne h3 (by decide)),
    fun h24 h25 h26 => snapshot_restore_single htype hv s.cpu h24 h25 h26, ?file, ?bytes, ?pos⟩,
    fun value hv => hunfit hkey htype hv _⟩,
    fun hkey n => ⟨load_column hhere hnames hopen hkey, fun hn => hunfit hkey (i := 8) rfl (parseVal_below_none hn) _⟩,
    fun hkey bs => ⟨load_ram hhere hnames hopen hkey, fun hlen => hunfit hkey (i := 2) rfl (parseVal_bufOf_none hlen)⟩,
    fun hkey bs => ⟨load_vram hhere hnames hopen hkey, fun hlen => hunfit hkey (i := 3) rfl (parseVal_bufOf_none hlen)⟩,
    fun hkey => ⟨load_irqLine hhere hnames hopen hkey,
      fun value htrue hfalse => hunfit hkey (i := 0) rfl (parseVal_flag_none htrue hfalse) _⟩,
    fun hkey => ⟨load_nmiLine hhere hnames hopen hkey, hunfit hkey (i := 1) (value := trueLine) rfl (by decide) _⟩,
    fun hkey n => ⟨load_cont hhere hnames hopen hkey, fun hn => hunfit hkey (i := 23) rfl (parseVal_below_none hn) _⟩,
    fun block => load_block hhere, fun lines => load_without_end hhere, fun lines => load_without_start hhere⟩
  case file =>
    rintro rfl
    cases htype
    obtain ⟨b, rfl⟩ := SnapVal.fits_flag hv
    exact congrArg (fun t => t.withReply (.notices [])) (restore_single_open b s.cpu)
  case bytes =>
    rintro rfl bs rfl
    exact congrArg (fun t => t.withReply (.notices [])) (restore_single_bytes bs s.cpu)
  case pos =>
    rintro rfl n rfl
    exact congrArg (fun t => t.withReply (.notices [])) (restore_single_pos n s.cpu)

end Sys2Proof.Safety
end

section
/-! PROOFS. A saved text read back (48_host_interface.md R305): piece by piece every field and the CPU is gathered, in whatever order
the pieces stand, and what is gathered restores the state. -/

namespace Sys2Proof.Machine

open Sys2Proof.Safety

variable {s s' : State} {a : LoadState} {rest : Text} {i : Nat}

/-- What the piece of a text saved from `s` gives a load. -/
def LoadState.gather (s : State) (a : LoadState) (item : TextItem) : LoadState :=
  match item with
  | .field i =>
    match s.snapshot[i]? with
    | some v => { a with vals := a.vals.set i (some v) }
    | none => a
  | .cpuBlock => { a with cpu := s.cpu }

/-- The lines of a piece of the text saved from `s` (R302). -/
def savedPiece (s : State) (item : TextItem) : Text :=
  match item with
  | .field i => ((fieldLines s)[i]?).toList
  | .cpuBlock => cpuLines s

theorem saveLines_eq (s : State) :
    saveLines s = startMarker s.cfg :: (s.cfg.textOrder.flatMap (savedPiece s) ++ [endMarker s.cfg]) := rfl

/-- What a field of a snapshot holds fits it. -/
theorem snapshot_entry_fits (hs : InRange s) (hc : s.link.cont ≠ .test) {v : SnapVal} (hv : s.snapshot[i]? = some v) :
    ∃ type, (snapTypes s.cfg)[i]? = some type ∧ v.fits type = true := by
  obtain ⟨hlen, hfits⟩ := List.forall₂_iff_get.1 (snapshot_fits s hs hc)
  obtain ⟨hi, rfl⟩ := List.getElem?_eq_some_iff.1 hv
  exact ⟨_, List.getElem?_eq_getElem (hlen ▸ hi), hfits i hi (hlen ▸ hi)⟩

section Saved

variable (hs : InRange s) (hnames : TextNamesOk s.cfg) (hengine : EngineTextOk s.engine s.cfg) (hc : s.link.cont ≠ .test)

include hs hnames hengine hc

/-- A piece of the saved text is read as what it was saved from. -/
theorem loadLines_savedPiece (a : LoadState) (item : TextItem) :
    loadLines s.cfg s.engine .fields a (savedPiece s item ++ rest) =
      loadLines s.cfg s.engine .fields (a.gather s item) rest := by
  cases item with
  | field i =>
    rw [savedPiece, fieldLines_getElem?, LoadState.gather]
    cases hv : s.snapshot[i]? with
    | none => cases s.cfg.textKeys[i]? <;> rfl
    | some v =>
      obtain ⟨type, htype, hfits⟩ := snapshot_entry_fits hs hc hv
      have hi : i < s.cfg.textKeys.length := hnames.count ▸ (List.getElem?_eq_some_iff.1 htype).1
      have hkey : s.cfg.textKeys[i]? = some s.cfg.textKeys[i] := List.getElem?_eq_getElem hi
      rw [hkey, Option.bind_some, Option.map_some, Option.toList_some, List.singleton_append, fieldLine,
        loadLines_fieldLine (by simp) hnames.marker hengine.noSpace, loadField_known hnames hkey htype,
        parseVal_printVal type v hfits]
      rfl
  | cpuBlock =>
    have hload : loadCpu s.cfg s.engine (saveCpu s.engine s.cpu) = some s.cpu :=
      loadCpu_eq_some.2 ⟨hengine.law s.cpu, hs.pc⟩
    rw [savedPiece, cpuLines, List.append_assoc, List.cons_append, loadLines_openMark hengine.notEnd]
    rw [List.singleton_append, loadLines_block (hengine.closes s.cpu), List.nil_append, hload]
    rfl

theorem loadLines_savedPieces (items : List TextItem) (a : LoadState) :
    loadLines s.cfg s.engine .fields a (items.flatMap (savedPiece s) ++ rest) =
      loadLines s.cfg s.engine .fields (items.foldl (LoadState.gather s) a) rest := by
  induction items generalizing a with
  | nil => rfl
  | cons item items ih =>
    rw [List.flatMap_cons, List.append_assoc, loadLines_savedPiece hs hnames hengine hc, ih, List.foldl_cons]

end Saved

/-! What all pieces together give, in whatever order they stand. -/

theorem gather_notices (items : List TextItem) (a : LoadState) : (items.foldl (LoadState.gather s) a).notices = a.notices := by
  induction items generalizing a with
  | nil => rfl
  | cons item items ih =>
    rw [List.foldl_cons, ih]
    cases item with
    | field i => rw [LoadState.gather]; split <;> rfl
    | cpuBlock => rfl

theorem gather_cpu (items : List TextItem) (a : LoadState) :
    (items.foldl (LoadState.gather s) a).cpu = if .cpuBlock ∈ items then s.cpu else a.cpu := by
  induction items generalizing a with
  | nil => rfl
  | cons item items ih =>
    rw [List.foldl_cons, ih]
    cases item with
    | field i =>
      have hcpu : (a.gather s (.field i)).cpu = a.cpu := by rw [LoadState.gather]; split <;> rfl
      simp [hcpu]
    | cpuBlock => simp [LoadState.gather]

theorem gather_vals (items : List TextItem) (a : LoadState) (hlen : a.vals.length = s.snapshot.length) (k : Nat) :
    (items.foldl (LoadState.gather s) a).vals[k]? =
      if .field k ∈ items then s.snapshot[k]?.map some else a.vals[k]? := by
  induction items generalizing a with
  | nil => rfl
  | cons item items ih =>
    rw [List.foldl_cons]
    cases item with
    | cpuBlock =>
      rw [ih (a.gather s .cpuBlock) hlen]
      simp [LoadState.gather]
    | field i =>
      have hgather : (a.gather s (.field i)).vals.length = s.snapshot.length ∧
          ∀ k, (a.gather s (.field i)).vals[k]? = if i = k then s.snapshot[k]?.map some else a.vals[k]? := by
        rw [LoadState.gather]
        cases hv : s.snapshot[i]? with
        | none =>
          refine ⟨hlen, fun k => ?_⟩
          by_cases hik : i = k
          · subst hik
            rw [if_pos rfl, hv, List.getElem?_eq_none (hlen ▸ List.getElem?_eq_none_iff.1 hv)]
            rfl
          · rw [if_neg hik]
        | some v =>
          have hi : i < a.vals.length := hlen ▸ (List.getElem?_eq_some_iff.1 hv).1
          refine ⟨by rw [List.length_set, hlen], fun k => ?_⟩
          by_cases hik : i = k
          · subst hik
            rw [if_pos rfl, hv, List.getElem?_set_self hi]
            rfl
          · rw [if_neg hik, List.getElem?_set_ne hik]
      rw [ih _ hgather.1, hgather.2]
      by_cases hk : TextItem.field k ∈ items
      · rw [if_pos hk, if_pos (List.mem_cons_of_mem _ hk)]
      · rw [if_neg hk]
        by_cases hik : i = k
        · subst hik
          rw [if_pos rfl, if_pos List.mem_cons_self]
        · rw [if_neg hik, if_neg]
          simp [hk, Ne.symm hik]

/-- The pieces of a text whose order names every field and the CPU block give the whole snapshot. -/
theorem gather_all (horder : TextNamesOk s.cfg) {a : LoadState} (hlen : a.vals.length = s.snapshot.length) :
    s.cfg.textOrder.foldl (LoadState.gather s) a =
      { vals := s.snapshot.map some, cpu := s.cpu, notices := a.notices } := by
  have hmem (item : TextItem) := horder.order.mem_iff (a := item)
  have hvals : (s.cfg.textOrder.foldl (LoadState.gather s) a).vals = s.snapshot.map some := by
    refine List.ext_getElem? fun k => ?_
    rw [gather_vals _ _ hlen, List.getElem?_map]
    by_cases hk : k < (snapTypes s.cfg).length
    · rw [if_pos ((hmem _).2 (by simp [hk]))]
    · have hend : s.snapshot.length ≤ k := Nat.not_lt.1 hk
      rw [List.getElem?_eq_none hend, List.getElem?_eq_none (hlen ▸ hend)]
      split <;> rfl
  have hcpu : (s.cfg.textOrder.foldl (LoadState.gather s) a).cpu = s.cpu := by
    rw [gather_cpu, if_pos ((hmem _).2 (by simp))]
  rw [← hvals, ← hcpu, ← gather_notices s.cfg.textOrder a]

/-! What a whole snapshot restores. -/

theorem phaseOr_snapshot (keep : LinkPhase) : phaseOr (s.snapshot.map some) 17 keep = s.link.phase := by
  show (phaseOfOrdinal (phaseOrdinal s.link.phase)).getD keep = s.link.phase
  cases s.link.phase <;> rfl

theorem contOr_snapshot (hc : s.link.cont ≠ .test) (keep : Continuation) :
    contOr (s.snapshot.map some) 23 keep = s.link.cont := by
  show (contOfOrdinal (contOrdinal s.link.cont)).getD keep = s.link.cont
  cases h : s.link.cont with
  | test => exact absurd h hc
  | none | receiveReqAck | sendVariableData | receiveDataAck | endTransmission | endOutOfMemory | finalize => rfl

theorem restoreFile_snapshot (l : Link) : restoreFile (s.snapshot.map some) l = s.link.file := by
  show (if s.link.file.isSome then some { bytes := s.link.fileBytes, pos := s.link.filePos } else none) = s.link.file
  simp only [Link.fileBytes, Link.filePos]
  cases s.link.file <;> rfl

theorem memoryOr_snapshot (hs : InRange s) (keep : Memory) :
    memoryOr (s.snapshot.map some) 2 ramFill keep = s.ram ∧ memoryOr (s.snapshot.map some) 3 vramFill keep = s.vram :=
  ⟨Memory.ofBytesFrom_toBytesFrom (i := 0) hs.ram (by rw [Nat.zero_add]; exact hs.ramBelow),
    Memory.ofBytesFrom_toBytesFrom (i := 0) hs.vram (by rw [Nat.zero_add]; exact hs.vramBelow)⟩

theorem bitsOr_snapshot {w : Nat} {x : BitVec w} (h : s.snapshot[i]? = some (.num x.toNat)) (keep : BitVec w) :
    bitsOr (s.snapshot.map some) i keep = x := by
  rw [bitsOr, List.getElem?_map, h]
  exact (BitVec.ofNat_toNat ..).trans (BitVec.setWidth_eq x)

theorem restoreMapping_snapshot (m : Mapping) : restoreMapping (s.snapshot.map some) m = s.map := by
  rw [restoreMapping, bitsOr_snapshot (x := s.map.bankHigh) rfl]
  rfl

theorem restoreDisplay_snapshot (d : Display) : restoreDisplay (s.snapshot.map some) d = s.disp := by
  rw [restoreDisplay, bitsOr_snapshot (x := s.disp.mode) rfl, bitsOr_snapshot (x := s.disp.dir) rfl,
    bitsOr_snapshot (x := s.disp.x) rfl, bitsOr_snapshot (x := s.disp.y) rfl]
  rfl

theorem restoreKeyboard_snapshot (k : Keyboard) : restoreKeyboard (s.snapshot.map some) k = s.kbd := by
  rw [restoreKeyboard, bitsOr_snapshot (x := s.kbd.keyMask) rfl]
  rfl

theorem restoreLink_snapshot (hc : s.link.cont ≠ .test) (l : Link) :
    restoreLink (s.snapshot.map some) l = { s.link with testCount := l.testCount } := by
  rw [restoreLink, bitsOr_snapshot (x := s.link.lineOut) rfl, bitsOr_snapshot (x := s.link.lineIn) rfl, phaseOr_snapshot,
    bitsOr_snapshot (x := s.link.cur) rfl, bitsOr_snapshot (x := s.link.toSend) rfl, contOr_snapshot hc,
    restoreFile_snapshot]
  rfl

/-- A whole snapshot restores every element of it. -/
theorem restore_snapshot (hs : InRange s) (hc : s.link.cont ≠ .test) (cpu : Cpu) :
    s'.restore (s.snapshot.map some) cpu = { s' with
      cpu := cpu, irqLine := s.irqLine, nmiLine := s.nmiLine, ram := s.ram, vram := s.vram, map := s.map, disp := s.disp,
      kbd := s.kbd, link := { s.link with testCount := s'.link.testCount }, ctr := s.ctr } := by
  rw [State.restore, (memoryOr_snapshot hs s'.ram).1, (memoryOr_snapshot hs s'.vram).2, restoreMapping_snapshot,
    restoreDisplay_snapshot, restoreKeyboard_snapshot, restoreLink_snapshot hc]
  rfl

end Sys2Proof.Machine

namespace Sys2Proof.Safety

open Sys2Proof.Machine

/-- Settles O54: the pieces of the text give back the snapshot and the CPU, and the two states then differ in nothing that an
operation depends on. -/
theorem saveLoadRoundTrip : Obligations.SaveLoadRoundTrip := by
  intro s s' hs hnames hengine hc here saved t
  have hload (hhere : here s' = here s) :
      loadLines s'.cfg s'.engine .before s'.loadStart saved.text =
        some { vals := s.snapshot.map some, cpu := s.cpu, notices := [] } := by
    have hcfg : s'.cfg = s.cfg := congrArg Origin.cfg hhere
    have heng : s'.engine = s.engine := congrArg Origin.engine hhere
    show loadLines s'.cfg s'.engine .before s'.loadStart (saveLines s) = _
    rw [hcfg, heng, saveLines_eq, loadLines_startMarker, loadLines_savedPieces hs hnames hengine hc, loadLines_endMarker,
      gather_all hnames (List.length_replicate ..)]
    rfl
  have hanswer {snap : Snapshot} (hhere : here s' = here s) (hsnap : fromHere snap s' = true) (htext : snap.text = saved.text) :
      exec (.loadText snap) s' = .next t := by
    refine (execLoadText_accepted hsnap (by rw [htext]; exact hload hhere)).trans ?_
    rw [restore_snapshot hs hc]
    rfl
  refine ⟨rfl, fun hhere => ⟨hanswer hhere (decide_eq_true hhere.symm) rfl, hanswer hhere rfl rfl⟩,
    fun hhere => execLoadText_elsewhere (decide_eq_false (Ne.symm hhere)),
    fun hhere hbuttons hfeed hpoll hframe hdisposed ops => sameStateSameResults s t ops ?_⟩
  have hcfg : s'.cfg = s.cfg := congrArg Origin.cfg hhere
  have hstart : s'.startPc = s.startPc := congrArg Origin.startPc hhere
  have hrom : s'.rom = s.rom := congrArg Origin.rom hhere
  have heng : s'.engine = s.engine := congrArg Origin.engine hhere
  show bare s = { bare s with
    cfg := s'.cfg, startPc := s'.startPc, hooks := { read := false, write := false, poll := s'.hooks.poll },
    engine := s'.engine, rom := s'.rom, buttons := s'.buttons, pollFeed := s'.pollFeed, inFrame := s'.inFrame,
    disposed := s'.disposed }
  rw [hcfg, hstart, hrom, heng, hbuttons, hfeed, hpoll, hframe, hdisposed]
  rfl

end Sys2Proof.Safety
end
